-- ==== Sys2Proof/Word.lean ====
section
/-! DEFINITION. The widths of the engine's values (spec/00_scope.md R9, R10). All of them are unsigned. -/

namespace Sys2Proof

/-- A byte: 8 bits (R9). -/
abbrev Byte := BitVec 8

/-- The value of one register access: 32 bits (20_memory.md R46). -/
abbrev Word := BitVec 32

/-- A lane of the state, and a 64-bit length or counter (R10, 10_state.md R24, R28). -/
abbrev Long := BitVec 64

end Sys2Proof
end

