-- ==== Sys2Proof/Syntax.lean ====
section
/-! DEFINITION. What the host can issue: a bus access to the register window (the encoded form,
spec/20_memory.md R46, 30_encoding.md R65) and the operation it stands for (30_encoding.md R77, one constructor
per row of opcode_table.json). -/

namespace Sys2Proof

/-- The width of a bus access. The engine answers only 32-bit ones (20_memory.md R48). -/
inductive Width where
  | byte
  | half
  | word
deriving DecidableEq, Repr

/-- A host access to the window: `RegRead(off)` or `RegWrite(off, v)` with the byte offset `off` (20_memory.md R46),
and the accesses of other widths and offsets that a model must refuse (R48). -/
inductive Access where
  | read (width : Width) (off : Nat)
  | write (width : Width) (off : Nat) (v : Word)
deriving DecidableEq, Repr

/-- The encoded operations of 30_encoding.md R77. `v` is the 32-bit value of a write, whole. -/
inductive Instr where
  -- command words (a write of CMD, offset 0x00)
  | init
  | start (fid : BitVec 4)
  | startCshake (fid : BitVec 4)
  | finish
  | reservedCmd (w : Word)
  -- the byte ports
  | absorb (v : Word)
  | squeeze
  -- readback
  | rdStatus
  | rdInfo
  | rdIndex
  | rdRemLo
  | rdRemHi
  -- length registers
  | wrNlenLo (v : Word)
  | rdNlenLo
  | wrNlenHi (v : Word)
  | rdNlenHi
  | wrSlenLo (v : Word)
  | rdSlenLo
  | wrSlenHi (v : Word)
  | rdSlenHi
  | wrOlenLo (v : Word)
  | rdOlenLo
  | wrOlenHi (v : Word)
  | rdOlenHi
  -- accesses with no effect
  | noEffectRdCmd
  | noEffectRdDin
  | noEffectWrStatus (v : Word)
  | noEffectWrDout (v : Word)
  | noEffectWrInfo (v : Word)
  | noEffectWrIndex (v : Word)
  | noEffectWrRemLo (v : Word)
  | noEffectWrRemHi (v : Word)
  | noEffectRd38
  | noEffectRd3C
  | noEffectWr38 (v : Word)
  | noEffectWr3C (v : Word)
deriving DecidableEq, Repr

end Sys2Proof
end

