-- ==== Sys2Proof/WellFormed.lean ====
section
/-! DEFINITION. Which terms of `Instr` an access can stand for. Every field has its width in its type; the one check
is that the word of a RESERVED_CMD is reserved (spec/30_encoding.md R69). -/

namespace Sys2Proof

/-- A reserved command word (30_encoding.md R69): OPC ∈ {0x0, 0x5..0xF}, or RSV0 ≠ 0, or RSV1 ≠ 0, or
OPC ∈ {0x1, 0x4} and FID ≠ 0. -/
def reservedWord (w : Word) : Bool :=
  let opc := w.extractLsb' 0 4
  let rsv0 := w.extractLsb' 4 4
  let fid := w.extractLsb' 8 4
  let rsv1 := w.extractLsb' 12 20
  opc == 0x0 || decide (0x5 ≤ opc) || rsv0 != 0 || rsv1 != 0 || ((opc == 0x1 || opc == 0x4) && fid != 0)

/-- Well-formed instructions. Any FID is encodable in START and START_CSHAKE (30_encoding.md R68, R71). -/
def Instr.wellFormed : Instr → Bool
  | .init => true
  | .start _ => true
  | .startCshake _ => true
  | .finish => true
  | .reservedCmd w => reservedWord w
  | .absorb _ => true
  | .squeeze => true
  | .rdStatus => true
  | .rdInfo => true
  | .rdIndex => true
  | .rdRemLo => true
  | .rdRemHi => true
  | .wrNlenLo _ => true
  | .rdNlenLo => true
  | .wrNlenHi _ => true
  | .rdNlenHi => true
  | .wrSlenLo _ => true
  | .rdSlenLo => true
  | .wrSlenHi _ => true
  | .rdSlenHi => true
  | .wrOlenLo _ => true
  | .rdOlenLo => true
  | .wrOlenHi _ => true
  | .rdOlenHi => true
  | .noEffectRdCmd => true
  | .noEffectRdDin => true
  | .noEffectWrStatus _ => true
  | .noEffectWrDout _ => true
  | .noEffectWrInfo _ => true
  | .noEffectWrIndex _ => true
  | .noEffectWrRemLo _ => true
  | .noEffectWrRemHi _ => true
  | .noEffectRd38 => true
  | .noEffectRd3C => true
  | .noEffectWr38 _ => true
  | .noEffectWr3C _ => true

end Sys2Proof
end

