-- ==== Sys2Proof/Decode.lean ====
section
/-! DEFINITION. Decoding an access into an operation, total, refusing by name what is no admitted access; then the
encoder (spec/30_encoding.md R66 to R73, R77; 20_memory.md R47, R48). -/

namespace Sys2Proof

/-- Why an access is no operation of the engine (20_memory.md R48, 60_exceptions.md R174). -/
inductive DecodeError where
  /-- The access is not 32 bits wide. -/
  | width
  /-- The offset is not a multiple of 4. -/
  | misaligned
  /-- The offset is 0x40 or more. -/
  | outside
deriving DecidableEq, Repr

/-! The command word CMDW (30_encoding.md R66). -/

/-- OPC, bits [3:0]. -/
def opcOf (w : Word) : BitVec 4 := w.extractLsb' 0 4

/-- RSV0, bits [7:4]. -/
def rsv0Of (w : Word) : BitVec 4 := w.extractLsb' 4 4

/-- FID, bits [11:8]. -/
def fidOf (w : Word) : BitVec 4 := w.extractLsb' 8 4

/-- RSV1, bits [31:12]. -/
def rsv1Of (w : Word) : BitVec 20 := w.extractLsb' 12 20

/-- `decode(w)` of 30_encoding.md R70: total on every 32-bit word. -/
def decodeCommand (w : Word) : Instr :=
  if rsv0Of w ≠ 0 ∨ rsv1Of w ≠ 0 then .reservedCmd w
  else if opcOf w = 0x1 ∧ fidOf w = 0 then .init
  else if opcOf w = 0x2 then .start (fidOf w)
  else if opcOf w = 0x3 then .startCshake (fidOf w)
  else if opcOf w = 0x4 ∧ fidOf w = 0 then .finish
  else .reservedCmd w

/-- A 32-bit read of offset `off` (access codes 0x000 to 0x03C, 30_encoding.md R73, R77). -/
def decodeRead (off : Nat) : Option Instr :=
  match off with
  | 0x00 => some .noEffectRdCmd
  | 0x04 => some .rdStatus
  | 0x08 => some .noEffectRdDin
  | 0x0C => some .squeeze
  | 0x10 => some .rdNlenLo
  | 0x14 => some .rdNlenHi
  | 0x18 => some .rdSlenLo
  | 0x1C => some .rdSlenHi
  | 0x20 => some .rdOlenLo
  | 0x24 => some .rdOlenHi
  | 0x28 => some .rdInfo
  | 0x2C => some .rdIndex
  | 0x30 => some .rdRemLo
  | 0x34 => some .rdRemHi
  | 0x38 => some .noEffectRd38
  | 0x3C => some .noEffectRd3C
  | _ => none

/-- A 32-bit write of `v` to offset `off` (access codes 0x100 to 0x13C). -/
def decodeWrite (off : Nat) (v : Word) : Option Instr :=
  match off with
  | 0x00 => some (decodeCommand v)
  | 0x04 => some (.noEffectWrStatus v)
  | 0x08 => some (.absorb v)
  | 0x0C => some (.noEffectWrDout v)
  | 0x10 => some (.wrNlenLo v)
  | 0x14 => some (.wrNlenHi v)
  | 0x18 => some (.wrSlenLo v)
  | 0x1C => some (.wrSlenHi v)
  | 0x20 => some (.wrOlenLo v)
  | 0x24 => some (.wrOlenHi v)
  | 0x28 => some (.noEffectWrInfo v)
  | 0x2C => some (.noEffectWrIndex v)
  | 0x30 => some (.noEffectWrRemLo v)
  | 0x34 => some (.noEffectWrRemHi v)
  | 0x38 => some (.noEffectWr38 v)
  | 0x3C => some (.noEffectWr3C v)
  | _ => none

/-- The offset of an access. -/
def Access.off : Access → Nat
  | .read _ off => off
  | .write _ off _ => off

/-- The width of an access. -/
def Access.width : Access → Width
  | .read width _ => width
  | .write width _ _ => width

/-- The accesses a model admits: aligned, 32 bits wide, inside the window (20_memory.md R46, R48). -/
abbrev Access.admitted (a : Access) : Prop := a.width = .word ∧ a.off % 4 = 0 ∧ a.off < 0x40

/-- The operation an admitted access names, by direction and offset. -/
def decodeAdmitted : Access → Option Instr
  | .read _ off => decodeRead off
  | .write _ off v => decodeWrite off v

/-- Decoding, total: the width is tested first, then the alignment, then the window. -/
def decode (a : Access) : Except DecodeError Instr :=
  if a.width ≠ .word then .error .width
  else if a.off % 4 ≠ 0 then .error .misaligned
  else
    match decodeAdmitted a with
    | some i => .ok i
    | none => .error .outside

/-! Access codes (30_encoding.md R73) and the encoder. -/

/-- The access of a 9-bit access code `AC = dir << 8 | off`, with the value written if it is a write. -/
def ofAccessCode (ac : BitVec 9) (v : Word) : Access :=
  let off := (ac.extractLsb' 0 8).toNat
  if ac.getLsbD 8 then .write .word off v else .read .word off

/-- The command word of OPC and FID, every reserved bit 0 (30_encoding.md R66, R75). -/
def commandWord (opc fid : BitVec 4) : Word := fid.setWidth 32 <<< 8 ||| opc.setWidth 32

/-- The access that issues an operation, from the tables of 30_encoding.md R67 and R77. -/
def encode : Instr → Access
  | .init => ofAccessCode 0x100 (commandWord 0x1 0)
  | .start fid => ofAccessCode 0x100 (commandWord 0x2 fid)
  | .startCshake fid => ofAccessCode 0x100 (commandWord 0x3 fid)
  | .finish => ofAccessCode 0x100 (commandWord 0x4 0)
  | .reservedCmd w => ofAccessCode 0x100 w
  | .absorb v => ofAccessCode 0x108 v
  | .squeeze => ofAccessCode 0x00C 0
  | .rdStatus => ofAccessCode 0x004 0
  | .rdInfo => ofAccessCode 0x028 0
  | .rdIndex => ofAccessCode 0x02C 0
  | .rdRemLo => ofAccessCode 0x030 0
  | .rdRemHi => ofAccessCode 0x034 0
  | .wrNlenLo v => ofAccessCode 0x110 v
  | .rdNlenLo => ofAccessCode 0x010 0
  | .wrNlenHi v => ofAccessCode 0x114 v
  | .rdNlenHi => ofAccessCode 0x014 0
  | .wrSlenLo v => ofAccessCode 0x118 v
  | .rdSlenLo => ofAccessCode 0x018 0
  | .wrSlenHi v => ofAccessCode 0x11C v
  | .rdSlenHi => ofAccessCode 0x01C 0
  | .wrOlenLo v => ofAccessCode 0x120 v
  | .rdOlenLo => ofAccessCode 0x020 0
  | .wrOlenHi v => ofAccessCode 0x124 v
  | .rdOlenHi => ofAccessCode 0x024 0
  | .noEffectRdCmd => ofAccessCode 0x000 0
  | .noEffectRdDin => ofAccessCode 0x008 0
  | .noEffectWrStatus v => ofAccessCode 0x104 v
  | .noEffectWrDout v => ofAccessCode 0x10C v
  | .noEffectWrInfo v => ofAccessCode 0x128 v
  | .noEffectWrIndex v => ofAccessCode 0x12C v
  | .noEffectWrRemLo v => ofAccessCode 0x130 v
  | .noEffectWrRemHi v => ofAccessCode 0x134 v
  | .noEffectRd38 => ofAccessCode 0x038 0
  | .noEffectRd3C => ofAccessCode 0x03C 0
  | .noEffectWr38 v => ofAccessCode 0x138 v
  | .noEffectWr3C v => ofAccessCode 0x13C v

/-! The numbering of opcode_table.json: a command row is a 32-bit word written to CMD; an access row is its 9-bit
access code, with every bit of a write's value 0. Bits above those put the access outside the window, so that it is
refused (DESIGN CHOICE, notes/assumptions/10.md). -/

/-- The access that the table's bits `w` of a row of `nbits` bits stand for. -/
def tableAccess (nbits w : Nat) : Access :=
  if nbits ≤ 16 then
    let off := w % 256 + 256 * (w / 512)
    if w / 256 % 2 = 1 then .write .word off 0 else .read .word off
  else .write .word (64 * (w / 2 ^ 32)) (BitVec.ofNat 32 w)

/-- The instruction the decoder reads from a row's bits. -/
def decodeTableWord (nbits w : Nat) : Option Instr :=
  match decode (tableAccess nbits w) with
  | .ok i => some i
  | .error _ => none

end Sys2Proof
end

