-- ==== Sys2Proof/Machine/State.lean ====
section
/-! DEFINITION. The state of the machine, why a step can stop, and the state after reset (spec/10_state.md). -/

namespace Sys2Proof.Machine

/-- The permutation state S: 25 lanes of 64 bits, lane A[x,y] at number x + 5·y (10_state.md R21). -/
abbrev Lanes := Vector Long 25

/-- PHASE (10_state.md R25): six values, the codes 6 and 7 never occur. -/
inductive Phase where
  | initial
  | absorbing
  | preN
  | preS
  | squeezing
  | finalized
deriving DecidableEq, Repr

/-- The hash context (10_state.md R24). -/
structure Context where
  /-- S -/
  lanes : Lanes
  /-- RATE, in bytes -/
  rate : BitVec 8
  /-- DLEN, in bytes -/
  dlen : BitVec 8
  /-- SUFFIX -/
  suffix : Byte
  /-- FID -/
  fid : BitVec 4
  /-- INDEX, an offset in the rate window -/
  index : BitVec 8
  /-- REM, string or output bytes still expected -/
  rem : Long
  /-- LSLEN, the latched length of S -/
  lslen : Long
  /-- PHASE -/
  phase : Phase
deriving DecidableEq, Repr

/-- An operation with the operands it latched at issue: the values of PEND but none (10_state.md R30). -/
inductive Op where
  | init
  | start (fid : BitVec 4)
  | startCshake (fid : BitVec 4) (nlen slen : Long)
  | finish (olen : Long)
  | absorb (b : Byte)
  | squeeze
  | reserved
deriving DecidableEq, Repr

/-- The two agents of 44_control.md R140. -/
inductive Turn where
  | engine
  | host
deriving DecidableEq, Repr

/-- What the host does next: an access, a reset (44_control.md R140), or the poll loop WAITIDLE (30_encoding.md R76). -/
inductive Event where
  | access (a : Access)
  | reset
  | waitIdle
deriving DecidableEq, Repr

/-- The machine. The last two fields are the model's own: they stand for the host and for the order in which the two
agents move (DESIGN CHOICE, notes/assumptions/1.md and 2.md). -/
structure State where
  /-- S and the context fields (10_state.md R24) -/
  ctx : Context
  /-- NLEN (10_state.md R28) -/
  nlen : Long
  /-- SLEN -/
  slen : Long
  /-- OLEN -/
  olen : Long
  /-- BUSY (10_state.md R29) -/
  busy : Bool
  /-- LAST_ERR -/
  lastErr : Bool
  /-- STICKY_ERR -/
  stickyErr : Bool
  /-- PEND (10_state.md R30) -/
  pend : Option Op
  /-- the values the host's reads have returned, oldest first (44_control.md R155) -/
  reads : List Word
  /-- what the host will do, oldest first -/
  host : List Event
  /-- who moves next, each time the engine's completion is enabled; the engine where the list is empty -/
  turns : List Turn
deriving DecidableEq, Repr

/-- No step faults: an error of the engine is the status of a completed operation, never a trap or a fault
(60_exceptions.md R165, R174). The type has no constructor. -/
inductive Fault where
deriving DecidableEq, Repr

/-- Why an access gets no meaning. Each one is raised by `step` when the host's next access is not admitted; each is
safe, since no claim holds of a refused run (44_control.md R156). -/
inductive Refusal where
  /-- Raised by an arm of `exec` whose instruction has no meaning yet. No arm is. Safe. -/
  | notModelled (mnemonic : String)
  /-- Raised for an access that is not 32 bits wide; the chip's response is the open parameter SUBWORD_ACCESS
  (20_memory.md R48). Safe. -/
  | subwordWidth
  /-- Raised for an offset that is not a multiple of 4; SUBWORD_ACCESS again (20_memory.md R48). Safe. -/
  | subwordOffset
  /-- Raised for an offset outside the 64-byte window (60_exceptions.md R174). Safe. -/
  | outsideWindow
deriving DecidableEq, Repr

/-- The cleared context: S and every field 0, PHASE = INITIAL (10_state.md R26, R34). -/
def Context.zero : Context where
  lanes := Vector.replicate 25 0
  rate := 0
  dlen := 0
  suffix := 0
  fid := 0
  index := 0
  rem := 0
  lslen := 0
  phase := .initial

/-- The machine right after reset (10_state.md R34). The host has nothing to do yet and nothing has been read. -/
def State.reset : State where
  ctx := Context.zero
  nlen := 0
  slen := 0
  olen := 0
  busy := false
  lastErr := false
  stickyErr := false
  pend := none
  reads := []
  host := []
  turns := []

end Sys2Proof.Machine
end

