-- ==== Sys2Proof/Machine/FamilyTable.lean ====
section
/-! DEFINITION. The family parameter table (spec/41_family_table.md). -/

namespace Sys2Proof.Machine

/-- A row of the table: RATE, DLEN and the suffix START sets (R100). -/
structure FamilyRow where
  rate : BitVec 8
  dlen : BitVec 8
  suffix : Byte
deriving DecidableEq, Repr

/-- Lookup(fid): the row of a family, none where the FID names no family (R100, R101). -/
def lookupFamily (fid : BitVec 4) : Option FamilyRow :=
  if fid = 1 then some ⟨144, 28, 0x06⟩
  else if fid = 2 then some ⟨136, 32, 0x06⟩
  else if fid = 3 then some ⟨104, 48, 0x06⟩
  else if fid = 4 then some ⟨72, 64, 0x06⟩
  else if fid = 5 then some ⟨168, 0, 0x1F⟩
  else if fid = 6 then some ⟨136, 0, 0x1F⟩
  else if fid = 7 then some ⟨168, 0, 0x1F⟩
  else if fid = 8 then some ⟨136, 0, 0x1F⟩
  else none

/-- isSHA3(fid) (R103). -/
def isSha3 (fid : BitVec 4) : Bool := fid == 1 || fid == 2 || fid == 3 || fid == 4

/-- isXOF(fid) (R103). -/
def isXof (fid : BitVec 4) : Bool := fid == 5 || fid == 6 || fid == 7 || fid == 8

/-- isCSHAKE(fid) (R103). -/
def isCshake (fid : BitVec 4) : Bool := fid == 7 || fid == 8

end Sys2Proof.Machine
end

