-- ==== Sys2Proof/Machine/Lanes.lean ====
section
/-! DEFINITION. The two views of the permutation state S: by lanes (spec/10_state.md R21) and by bytes (R22). -/

namespace Sys2Proof.Machine

/-- A[x,y], the lane at column x and row y: lane number x + 5·y (R21). -/
def Lanes.lane (A : Lanes) (x y : Fin 5) : Long := A[x.val + 5 * y.val]

/-- The state whose lane A[x,y] is `f x y`. -/
def Lanes.build (f : Fin 5 → Fin 5 → Long) : Lanes :=
  Vector.ofFn fun k : Fin 25 => f ⟨k.val % 5, by omega⟩ ⟨k.val / 5, by omega⟩

/-- The all-zero state. -/
def Lanes.zero : Lanes := Vector.replicate 25 0

/-- Sb[j], byte j of the 200-byte view: byte j mod 8 of lane j div 8, little-endian (R22). The view ends at 199; no
reachable state reads beyond it, and the model reads 0 there (DESIGN CHOICE, notes/assumptions/6.md). -/
def Lanes.byteAt (A : Lanes) (j : Nat) : Byte :=
  if h : j / 8 < 25 then (A[j / 8] >>> (8 * (j % 8))).setWidth 8 else 0

/-- Sb[j] <- v: bits [8i+7:8i] of the lane become v, every other bit of S stays (R22). Beyond the view nothing is
written (DESIGN CHOICE, notes/assumptions/6.md). -/
def Lanes.setByte (A : Lanes) (j : Nat) (v : Byte) : Lanes :=
  if h : j / 8 < 25 then
    A.set (j / 8) ((A[j / 8] &&& ~~~((0xFF : Long) <<< (8 * (j % 8)))) ||| (v.setWidth 64 <<< (8 * (j % 8))))
  else A

/-- Sb[j] <- Sb[j] ⊕ v. -/
def Lanes.xorByte (A : Lanes) (j : Nat) (v : Byte) : Lanes := A.setByte j (A.byteAt j ^^^ v)

end Sys2Proof.Machine
end

