-- ==== Sys2Proof/Machine/Permutation.lean ====
section
/-! DEFINITION. The permutation Keccak-f[1600] (spec/40_permutation.md). Coordinates are `Fin 5`, whose sums wrap
mod 5 (00_scope.md R11). The tables are the spec's own (R82, R86), which it marks as general knowledge and reports
checked against the source's vectors (TESTED, notes/assumptions/9.md). -/

namespace Sys2Proof.Machine

/-- rotl64(v, n): bit z of v becomes bit (z + n) mod 64 of the result (00_scope.md R10). -/
def rotl64 (v : Long) (n : Nat) : Long := v.rotateLeft n

/-- C[x], the parity of column x (R81). -/
def columnParity (A : Lanes) (x : Fin 5) : Long :=
  A.lane x 0 ^^^ A.lane x 1 ^^^ A.lane x 2 ^^^ A.lane x 3 ^^^ A.lane x 4

/-- θ (R81): every D[x] is computed from the input lanes. -/
def theta (A : Lanes) : Lanes :=
  let C : Vector Long 5 := Vector.ofFn (columnParity A)
  let D : Vector Long 5 := Vector.ofFn fun x => C[(x - 1 : Fin 5)] ^^^ rotl64 C[(x + 1 : Fin 5)] 1
  Lanes.build fun x y => A.lane x y ^^^ D[x]

/-- ρ[x,y], one row of the table for each y, by x within it (R82). -/
def rhoOffset (x y : Fin 5) : Nat :=
  match y with
  | 0 => #v[0, 1, 62, 28, 27][x]
  | 1 => #v[36, 44, 6, 55, 20][x]
  | 2 => #v[3, 10, 43, 25, 39][x]
  | 3 => #v[41, 45, 15, 21, 8][x]
  | 4 => #v[18, 2, 61, 56, 14][x]

/-- ρ (R82). -/
def rho (A : Lanes) : Lanes := Lanes.build fun x y => rotl64 (A.lane x y) (rhoOffset x y)

/-- π (R83): B[y, 2x+3y] = A[x,y], written by its inverse B[x,y] = A[x+3y, x]. -/
def pi (A : Lanes) : Lanes := Lanes.build fun x y => A.lane (x + 3 * y) x

/-- χ (R84): every output lane is computed from the input lanes. -/
def chi (B : Lanes) : Lanes :=
  Lanes.build fun x y => B.lane x y ^^^ (~~~(B.lane (x + 1) y) &&& B.lane (x + 2) y)

/-- RC[i], for the rounds 0 to 23 (R86); there is no round beyond them. -/
def roundConstant (i : Nat) : Long :=
  match i with
  | 0 => 0x0000000000000001
  | 1 => 0x0000000000008082
  | 2 => 0x800000000000808A
  | 3 => 0x8000000080008000
  | 4 => 0x000000000000808B
  | 5 => 0x0000000080000001
  | 6 => 0x8000000080008081
  | 7 => 0x8000000000008009
  | 8 => 0x000000000000008A
  | 9 => 0x0000000000000088
  | 10 => 0x0000000080008009
  | 11 => 0x000000008000000A
  | 12 => 0x000000008000808B
  | 13 => 0x800000000000008B
  | 14 => 0x8000000000008089
  | 15 => 0x8000000000008003
  | 16 => 0x8000000000008002
  | 17 => 0x8000000000000080
  | 18 => 0x000000000000800A
  | 19 => 0x800000008000000A
  | 20 => 0x8000000080008081
  | 21 => 0x8000000000008080
  | 22 => 0x0000000080000001
  | 23 => 0x8000000080008008
  | _ => 0

/-- ι in round i (R85). -/
def iota (A : Lanes) (i : Nat) : Lanes := A.set 0 (A.lane 0 0 ^^^ roundConstant i)

/-- Rnd(A, i) = ι(χ(π(ρ(θ(A)))), i) (R89). -/
def keccakRound (A : Lanes) (i : Nat) : Lanes := iota (chi (pi (rho (theta A)))) i

/-- KeccakF: 24 rounds, i from 0 to 23 in increasing order (R92). Irreducible, so that a proof about the fields beside S never runs
the rounds by chance. -/
@[irreducible] def keccakF (A : Lanes) : Lanes := (List.range 24).foldl keccakRound A

end Sys2Proof.Machine
end

