-- ==== Sys2Proof/Machine/Ops.lean ====
section
/-! DEFINITION. The shared operations: the outcome of an operation (BadInputData is the engine's only error, and takes
no trap: spec/60_exceptions.md R160 to R166), the updates of the state, and the sponge's steps on the context
(42_sponge.md R105, R106; 44_control.md R144). -/

namespace Sys2Proof.Machine

/-! The outcome of an operation (60_exceptions.md R162). -/

/-- An operation ends in exactly one of two outcomes (R162). -/
inductive Verdict where
  | success
  | badInputData
deriving DecidableEq, Repr

/-- The context an operation leaves and its outcome. -/
structure Result where
  ctx : Context
  verdict : Verdict
deriving DecidableEq, Repr

/-- `succeed`: ends the operation with every change written before it (R162). -/
def succeed (c : Context) : Result := ⟨c, .success⟩

/-- `raise BadInputData`: ends the operation; the changes written before it remain (R162). It transfers no control and
saves nothing, so there is nothing to return from (R165, R166). -/
def raiseBadInput (c : Context) : Result := ⟨c, .badInputData⟩

/-! Updates of the state. -/

/-- Replaces the context. -/
def State.withContext (s : State) (c : Context) : State := { s with ctx := c }

/-- Replaces NLEN. -/
def State.withNlen (s : State) (v : Long) : State := { s with nlen := v }

/-- Replaces SLEN. -/
def State.withSlen (s : State) (v : Long) : State := { s with slen := v }

/-- Replaces OLEN. -/
def State.withOlen (s : State) (v : Long) : State := { s with olen := v }

/-- Returns a value to the host. -/
def State.returnData (s : State) (v : Word) : State := { s with reads := s.reads ++ [v] }

/-- PEND <- op, BUSY <- 1 (44_control.md R141). -/
def State.latch (s : State) (op : Op) : State := { s with pend := some op, busy := true }

/-- PEND <- none, BUSY <- 0 (44_control.md R143). -/
def State.release (s : State) : State := { s with pend := none, busy := false }

/-- STICKY_ERR <- 0 (44_control.md R144). -/
def State.clearSticky (s : State) : State := { s with stickyErr := false }

/-- The status an outcome writes: LAST_ERR is the outcome, STICKY_ERR is set by an error and kept by a success
(60_exceptions.md R161). -/
def State.record (s : State) (v : Verdict) : State :=
  match v with
  | .success => { s with lastErr := false }
  | .badInputData => { s with lastErr := true, stickyErr := true }

/-- Replaces what the host will do. -/
def State.withHost (s : State) (es : List Event) : State := { s with host := es }

/-- Uses up one turn: who moves next has been decided once. -/
def State.takeTurn (s : State) : State := { s with turns := s.turns.tail }

/-! The sponge's steps. -/

/-- clear_context() (44_control.md R144): S and every field 0, PHASE = INITIAL. -/
def clearContext : Context := Context.zero

/-- S <- KeccakF(S) (40_permutation.md R91). -/
def permute (c : Context) : Context := { c with lanes := keccakF c.lanes }

/-- absorb_byte(b) (42_sponge.md R105). -/
def absorbByte (b : Byte) (c : Context) : Context :=
  let c' := { c with lanes := c.lanes.xorByte c.index.toNat b, index := c.index + 1 }
  if c'.index = c'.rate then { permute c' with index := 0 } else c'

/-- absorb_byte applied to each byte of a string, in order. -/
def absorbBytes (bs : List Byte) (c : Context) : Context := bs.foldl (fun c b => absorbByte b c) c

/-- pad_to_boundary() (42_sponge.md R106). -/
def padToBoundary (c : Context) : Context :=
  if c.index ≠ 0 then { permute c with index := 0 } else c

end Sys2Proof.Machine
end

