-- ==== Sys2Proof/Machine/Cshake.lean ====
section
/-! DEFINITION. The cSHAKE preamble encoder (spec/43_cshake.md): left_encode and the preamble sequencer. -/

namespace Sys2Proof.Machine

/-- The loop `while x >= 2^(8·n): n = n + 1` of left_encode, with at most `fuel` turns left (R125). -/
def byteCountFrom (x : Nat) : Nat → Nat → Nat
  | 0, n => n
  | fuel + 1, n => if x < 2 ^ (8 * n) then n else byteCountFrom x fuel (n + 1)

/-- The least number of bytes, at least 1, that hold x < 2^64 (R125). -/
def byteCount (x : Nat) : Nat := byteCountFrom x 7 1

/-- x in n bytes, the most significant first. -/
def bigEndian (x n : Nat) : List Byte := (List.range n).reverse.map fun i => BitVec.ofNat 8 (x >>> (8 * i))

/-- left_encode(x) for 0 ≤ x < 2^64: the byte count, then x most significant byte first (R125). -/
def leftEncode (x : Nat) : List Byte := BitVec.ofNat 8 (byteCount x) :: bigEndian x (byteCount x)

/-- The first test of preamble_advance(): N is complete, so the length prefix of S is absorbed (R135). -/
def advanceFromN (c : Context) : Context :=
  if c.phase = .preN ∧ c.rem = 0 then
    { absorbBytes (leftEncode (8 * c.lslen.toNat)) c with rem := c.lslen, phase := .preS }
  else c

/-- The second test of preamble_advance(): S is complete, so the block is filled with zero bytes (R135). -/
def advanceFromS (c : Context) : Context :=
  if c.phase = .preS ∧ c.rem = 0 then
    { padToBoundary c with lslen := 0, phase := .absorbing }
  else c

/-- preamble_advance(): the two tests in order, in one call (R135). -/
def preambleAdvance (c : Context) : Context := advanceFromS (advanceFromN c)

/-- preamble_byte(b): the next byte of N or of S (R133). -/
def preambleByte (b : Byte) (c : Context) : Context :=
  let c' := absorbByte b c
  preambleAdvance { c' with rem := c'.rem - 1 }

end Sys2Proof.Machine
end

