-- ==== Sys2Proof/Machine/Flags.lean ====
section
/-! DEFINITION. The status flags and the words of the readback registers (spec/20_memory.md R47, 44_control.md R145 to
R148, 10_state.md R25, R29). -/

namespace Sys2Proof.Machine

/-- The 3-bit code of PHASE (10_state.md R25). -/
def Phase.code : Phase → BitVec 3
  | .initial => 0
  | .absorbing => 1
  | .preN => 2
  | .preS => 3
  | .squeezing => 4
  | .finalized => 5

/-- A status bit as a 32-bit value. -/
def flagWord (b : Bool) : Word := (BitVec.ofBool b).setWidth 32

/-- STATUS = STICKY_ERR << 5 | LAST_ERR << 4 | PHASE << 1 | BUSY (44_control.md R145). -/
def statusWord (s : State) : Word :=
  flagWord s.stickyErr <<< 5 ||| flagWord s.lastErr <<< 4 ||| s.ctx.phase.code.setWidth 32 <<< 1 ||| flagWord s.busy

/-- INFO = FID << 24 | SUFFIX << 16 | DLEN << 8 | RATE (44_control.md R146). -/
def infoWord (c : Context) : Word :=
  c.fid.setWidth 32 <<< 24 ||| c.suffix.setWidth 32 <<< 16 ||| c.dlen.setWidth 32 <<< 8 ||| c.rate.setWidth 32

/-- INDEX, zero-extended (44_control.md R147). -/
def indexWord (c : Context) : Word := c.index.setWidth 32

end Sys2Proof.Machine
end

