-- ==== Sys2Proof/Machine/Operands.lean ====
section
/-! DEFINITION. The operands: the halves of the 64-bit registers (spec/20_memory.md R52), what an operation latches at
issue (30_encoding.md R72, 44_control.md R141), and the data a DOUT read returns (R141). -/

namespace Sys2Proof.Machine

/-- V[31:0]. -/
def lowHalf (v : Long) : Word := v.extractLsb' 0 32

/-- V[63:32]. -/
def highHalf (v : Long) : Word := v.extractLsb' 32 32

/-- `zext_64(HI) << 32 | zext_64(LO)` (30_encoding.md R72). -/
def assemble (hi lo : Word) : Long := hi.setWidth 64 <<< 32 ||| lo.setWidth 64

/-- V[31:0] <- v. -/
def setLow (r : Long) (v : Word) : Long := assemble (highHalf r) v

/-- V[63:32] <- v. -/
def setHigh (r : Long) (v : Word) : Long := assemble v (lowHalf r)

/-- The byte of a DIN write: bits [7:0], the others ignored (30_encoding.md R72). -/
def dinByte (v : Word) : Byte := v.extractLsb' 0 8

/-- The data of a DOUT read: the next output byte in SQUEEZING, 0 in any other phase (44_control.md R141). -/
def doutWord (c : Context) : Word :=
  if c.phase = .squeezing then (c.lanes.byteAt c.index.toNat).setWidth 32 else 0

/-! What each operation latches (44_control.md R141). -/

/-- INIT has no operand. -/
def latchInit (_ : State) : Op := .init

/-- START takes the FID of its command word. -/
def latchStart (fid : BitVec 4) (_ : State) : Op := .start fid

/-- START_CSHAKE takes the FID of its command word and reads NLEN and SLEN. -/
def latchStartCshake (fid : BitVec 4) (s : State) : Op := .startCshake fid s.nlen s.slen

/-- FINISH reads OLEN. -/
def latchFinish (s : State) : Op := .finish s.olen

/-- A reserved command word has no operand. -/
def latchReserved (_ : State) : Op := .reserved

/-- ABSORB takes the low byte of the value written. -/
def latchAbsorb (v : Word) (_ : State) : Op := .absorb (dinByte v)

/-- SQUEEZE has no operand. -/
def latchSqueeze (_ : State) : Op := .squeeze

/-- The operation an instruction issues in a state; none for a plain access (44_control.md R140). -/
def operationOf (i : Instr) (s : State) : Option Op :=
  match i with
  | .init => some (latchInit s)
  | .start fid => some (latchStart fid s)
  | .startCshake fid => some (latchStartCshake fid s)
  | .finish => some (latchFinish s)
  | .reservedCmd _ => some (latchReserved s)
  | .absorb v => some (latchAbsorb v s)
  | .squeeze => some (latchSqueeze s)
  | .rdStatus => none
  | .rdInfo => none
  | .rdIndex => none
  | .rdRemLo => none
  | .rdRemHi => none
  | .wrNlenLo _ => none
  | .rdNlenLo => none
  | .wrNlenHi _ => none
  | .rdNlenHi => none
  | .wrSlenLo _ => none
  | .rdSlenLo => none
  | .wrSlenHi _ => none
  | .rdSlenHi => none
  | .wrOlenLo _ => none
  | .rdOlenLo => none
  | .wrOlenHi _ => none
  | .rdOlenHi => none
  | .noEffectRdCmd => none
  | .noEffectRdDin => none
  | .noEffectWrStatus _ => none
  | .noEffectWrDout _ => none
  | .noEffectWrInfo _ => none
  | .noEffectWrIndex _ => none
  | .noEffectWrRemLo _ => none
  | .noEffectWrRemHi _ => none
  | .noEffectRd38 => none
  | .noEffectRd3C => none
  | .noEffectWr38 _ => none
  | .noEffectWr3C _ => none

end Sys2Proof.Machine
end

