-- ==== Sys2Proof/Machine/Perform.lean ====
section
/-! DEFINITION. What each operation does when the engine completes it: the pseudocode of spec/42_sponge.md R107, R110,
R112, R115, 43_cshake.md R129 and 44_control.md R144, R152. -/

namespace Sys2Proof.Machine

/-- A context begun with a family's parameters and a zero state. -/
def beginSession (fid : BitVec 4) (row : FamilyRow) : Context where
  lanes := Lanes.zero
  rate := row.rate
  dlen := row.dlen
  suffix := row.suffix
  fid := fid
  index := 0
  rem := 0
  lslen := 0
  phase := .absorbing

/-- START(fid) (42_sponge.md R107). -/
def performStart (fid : BitVec 4) : Result :=
  match lookupFamily fid with
  | none => raiseBadInput clearContext
  | some row => succeed (beginSession fid row)

/-- The context of START_CSHAKE once the strings' lengths are known not both 0: the header left_encode(RATE) ‖
left_encode(8·nlen) is absorbed, then the sequencer waits for N (43_cshake.md R129, R132). -/
def beginPreamble (c : Context) (nlen slen : Long) : Context :=
  let c' := absorbBytes (leftEncode c.rate.toNat ++ leftEncode (8 * nlen.toNat)) { c with suffix := 0x04 }
  preambleAdvance { c' with rem := nlen, lslen := slen, phase := .preN }

/-- START_CSHAKE(fid, nlen, slen) (43_cshake.md R129). -/
def performStartCshake (fid : BitVec 4) (nlen slen : Long) : Result :=
  if isCshake fid = false ∨ 2 ^ 61 ≤ nlen.toNat ∨ 2 ^ 61 ≤ slen.toNat then raiseBadInput clearContext
  else
    match lookupFamily fid with
    | none => raiseBadInput clearContext
    | some row =>
      let c := beginSession fid { row with dlen := 0, suffix := 0x1F }
      if nlen = 0 ∧ slen = 0 then succeed c else succeed (beginPreamble c nlen slen)

/-- ABSORB(b) (42_sponge.md R110). -/
def performAbsorb (b : Byte) (c : Context) : Result :=
  match c.phase with
  | .absorbing => succeed (absorbByte b c)
  | .preN => succeed (preambleByte b c)
  | .preS => succeed (preambleByte b c)
  | .initial => raiseBadInput c
  | .squeezing => raiseBadInput c
  | .finalized => raiseBadInput c

/-- The padding injector: SUFFIX into Sb[INDEX], 0x80 into Sb[RATE − 1] (steps 1 and 2 of 42_sponge.md R112). -/
def injectPadding (c : Context) : Context :=
  { c with lanes := (c.lanes.xorByte c.index.toNat c.suffix).xorByte (c.rate.toNat - 1) 0x80 }

/-- FINISH(olen): the tests in the order of 60_exceptions.md R163, then the padding (42_sponge.md R112). -/
def performFinish (olen : Long) (c : Context) : Result :=
  if c.phase = .initial then raiseBadInput c
  else if c.phase ≠ .absorbing then raiseBadInput { c with phase := .finalized, rem := 0, lslen := 0 }
  else if c.dlen ≠ 0 ∧ olen ≠ c.dlen.setWidth 64 then raiseBadInput { c with phase := .finalized, rem := 0 }
  else
    succeed { permute (injectPadding c) with
      index := 0, rem := olen, phase := if olen = 0 then .finalized else .squeezing }

/-- The output sequencer's move to the next byte: KeccakF only at the end of a window with more output owed
(42_sponge.md R115, R116). -/
def advanceOutput (c : Context) : Context :=
  let c1 := { c with index := c.index + 1, rem := c.rem - 1 }
  let c2 :=
    if c1.index = c1.rate then
      if c1.rem ≠ 0 then { permute c1 with index := 0 } else { c1 with index := 0 }
    else c1
  if c2.rem = 0 then { c2 with phase := .finalized } else c2

/-- SQUEEZE() (42_sponge.md R115); its data is returned at issue (`doutWord`). -/
def performSqueeze (c : Context) : Result :=
  if c.phase = .squeezing then succeed (advanceOutput c) else raiseBadInput c

/-- INIT() (44_control.md R144); its write of STICKY_ERR is in `complete`. -/
def performInit : Result := succeed clearContext

/-- RESERVED() (44_control.md R152). -/
def performReserved (c : Context) : Result := raiseBadInput c

/-- perform(PEND) (44_control.md R143). -/
def perform (op : Op) (c : Context) : Result :=
  match op with
  | .init => performInit
  | .start fid => performStart fid
  | .startCshake fid nlen slen => performStartCshake fid nlen slen
  | .finish olen => performFinish olen c
  | .absorb b => performAbsorb b c
  | .squeeze => performSqueeze c
  | .reserved => performReserved c

end Sys2Proof.Machine
end

