-- ==== Sys2Proof/Machine/Protocol.lean ====
section
/-! DEFINITION. The operation protocol (spec/44_control.md R140 to R143): issue, completion, and an access from its
issue to its completion. -/

namespace Sys2Proof.Machine

/-- Issue (R141): a SQUEEZE returns its data now; the operation is latched and BUSY set. -/
def issue (op : Op) (s : State) : State :=
  match op with
  | .squeeze => (s.returnData (doutWord s.ctx)).latch op
  | .init => s.latch op
  | .start _ => s.latch op
  | .startCshake _ _ _ => s.latch op
  | .finish _ => s.latch op
  | .absorb _ => s.latch op
  | .reserved => s.latch op

/-- The state in which the status of an operation is recorded: INIT clears STICKY_ERR, no other operation does
(R144, 10_state.md R29). -/
def clearStickyFor (op : Op) (s : State) : State :=
  match op with
  | .init => s.clearSticky
  | .start _ => s
  | .startCshake _ _ _ => s
  | .finish _ => s
  | .absorb _ => s
  | .squeeze => s
  | .reserved => s

/-- Completion (R143): the pending operation is performed as one change, its status is written, the latch cleared.
With no pending operation only BUSY is cleared, which no run reaches (DESIGN CHOICE, notes/assumptions/7.md). -/
def complete (s : State) : State :=
  match s.pend with
  | none => s.release
  | some op =>
    let r := perform op s.ctx
    (((clearStickyFor op s).withContext r.ctx).record r.verdict).release

/-- The state an access that BUSY holds is performed in: the pending operation is complete (R142). -/
def settle (s : State) : State := if s.busy then complete s else s

/-- An operation from its issue to its completion, as one access: held while BUSY, then issued, then completed. The
host cannot tell this from the two steps but by a STATUS read between them (R143; DEDUCED, notes/assumptions/3.md). -/
def operate (latchOf : State → Op) (s : State) : Host.Outcome State Fault Refusal :=
  .next (complete (issue (latchOf (settle s)) (settle s)))

/-- A plain read: held while BUSY, then the value is returned and nothing else changes (R140, R142). -/
def plainRead (value : State → Word) (s : State) : Host.Outcome State Fault Refusal :=
  .next ((settle s).returnData (value (settle s)))

/-- A plain write: held while BUSY, then performed (R140, R142). -/
def plainWrite (update : State → State) (s : State) : Host.Outcome State Fault Refusal :=
  .next (update (settle s))

end Sys2Proof.Machine
end

