-- ==== Sys2Proof/Machine/Commands.lean ====
section
/-! DEFINITION. The meanings of the command words (a write of CMD; spec/30_encoding.md R67). -/

namespace Sys2Proof.Machine

/-- INIT (44_control.md R144). -/
def execInit (s : State) : Host.Outcome State Fault Refusal := operate latchInit s

/-- START fid (42_sponge.md R107). -/
def execStart (fid : BitVec 4) (s : State) : Host.Outcome State Fault Refusal := operate (latchStart fid) s

/-- START_CSHAKE fid (43_cshake.md R129). -/
def execStartCshake (fid : BitVec 4) (s : State) : Host.Outcome State Fault Refusal := operate (latchStartCshake fid) s

/-- FINISH (42_sponge.md R112). -/
def execFinish (s : State) : Host.Outcome State Fault Refusal := operate latchFinish s

/-- A reserved command word (44_control.md R152). -/
def execReservedCmd (_ : Word) (s : State) : Host.Outcome State Fault Refusal := operate latchReserved s

end Sys2Proof.Machine
end

