-- ==== Sys2Proof/Machine/Lengths.lean ====
section
/-! DEFINITION. The meanings of the length registers' accesses (spec/44_control.md R149 to R151). -/

namespace Sys2Proof.Machine

/-- WR_NLEN_LO (R149). -/
def execWrNlenLo (v : Word) (s : State) : Host.Outcome State Fault Refusal :=
  plainWrite (fun t => t.withNlen (setLow t.nlen v)) s

/-- RD_NLEN_LO (R149). -/
def execRdNlenLo (s : State) : Host.Outcome State Fault Refusal := plainRead (fun t => lowHalf t.nlen) s

/-- WR_NLEN_HI (R149). -/
def execWrNlenHi (v : Word) (s : State) : Host.Outcome State Fault Refusal :=
  plainWrite (fun t => t.withNlen (setHigh t.nlen v)) s

/-- RD_NLEN_HI (R149). -/
def execRdNlenHi (s : State) : Host.Outcome State Fault Refusal := plainRead (fun t => highHalf t.nlen) s

/-- WR_SLEN_LO (R150). -/
def execWrSlenLo (v : Word) (s : State) : Host.Outcome State Fault Refusal :=
  plainWrite (fun t => t.withSlen (setLow t.slen v)) s

/-- RD_SLEN_LO (R150). -/
def execRdSlenLo (s : State) : Host.Outcome State Fault Refusal := plainRead (fun t => lowHalf t.slen) s

/-- WR_SLEN_HI (R150). -/
def execWrSlenHi (v : Word) (s : State) : Host.Outcome State Fault Refusal :=
  plainWrite (fun t => t.withSlen (setHigh t.slen v)) s

/-- RD_SLEN_HI (R150). -/
def execRdSlenHi (s : State) : Host.Outcome State Fault Refusal := plainRead (fun t => highHalf t.slen) s

/-- WR_OLEN_LO (R151). -/
def execWrOlenLo (v : Word) (s : State) : Host.Outcome State Fault Refusal :=
  plainWrite (fun t => t.withOlen (setLow t.olen v)) s

/-- RD_OLEN_LO (R151). -/
def execRdOlenLo (s : State) : Host.Outcome State Fault Refusal := plainRead (fun t => lowHalf t.olen) s

/-- WR_OLEN_HI (R151). -/
def execWrOlenHi (v : Word) (s : State) : Host.Outcome State Fault Refusal :=
  plainWrite (fun t => t.withOlen (setHigh t.olen v)) s

/-- RD_OLEN_HI (R151). -/
def execRdOlenHi (s : State) : Host.Outcome State Fault Refusal := plainRead (fun t => highHalf t.olen) s

end Sys2Proof.Machine
end

