-- ==== Sys2Proof/Machine/NoEffect.lean ====
section
/-! DEFINITION. The meanings of the accesses with no effect (spec/44_control.md R153, 20_memory.md R49, R50): a read
returns 0, a write does nothing, no status changes. -/

namespace Sys2Proof.Machine

/-- A read of the write-only register CMD. -/
def execNoEffectRdCmd (s : State) : Host.Outcome State Fault Refusal := plainRead (fun _ => 0) s

/-- A read of the write-only register DIN. -/
def execNoEffectRdDin (s : State) : Host.Outcome State Fault Refusal := plainRead (fun _ => 0) s

/-- A read of the unmapped offset 0x38. -/
def execNoEffectRd38 (s : State) : Host.Outcome State Fault Refusal := plainRead (fun _ => 0) s

/-- A read of the unmapped offset 0x3C. -/
def execNoEffectRd3C (s : State) : Host.Outcome State Fault Refusal := plainRead (fun _ => 0) s

/-- A write of the read-only register STATUS. -/
def execNoEffectWrStatus (_ : Word) (s : State) : Host.Outcome State Fault Refusal := plainWrite (fun t => t) s

/-- A write of DOUT: it does not advance the output sequencer. -/
def execNoEffectWrDout (_ : Word) (s : State) : Host.Outcome State Fault Refusal := plainWrite (fun t => t) s

/-- A write of the read-only register INFO. -/
def execNoEffectWrInfo (_ : Word) (s : State) : Host.Outcome State Fault Refusal := plainWrite (fun t => t) s

/-- A write of the read-only register INDEX. -/
def execNoEffectWrIndex (_ : Word) (s : State) : Host.Outcome State Fault Refusal := plainWrite (fun t => t) s

/-- A write of the read-only register REM_LO. -/
def execNoEffectWrRemLo (_ : Word) (s : State) : Host.Outcome State Fault Refusal := plainWrite (fun t => t) s

/-- A write of the read-only register REM_HI. -/
def execNoEffectWrRemHi (_ : Word) (s : State) : Host.Outcome State Fault Refusal := plainWrite (fun t => t) s

/-- A write of the unmapped offset 0x38. -/
def execNoEffectWr38 (_ : Word) (s : State) : Host.Outcome State Fault Refusal := plainWrite (fun t => t) s

/-- A write of the unmapped offset 0x3C. -/
def execNoEffectWr3C (_ : Word) (s : State) : Host.Outcome State Fault Refusal := plainWrite (fun t => t) s

end Sys2Proof.Machine
end

