-- ==== Sys2Proof/Machine/Ports.lean ====
section
/-! DEFINITION. The meanings of the byte ports DIN and DOUT (spec/42_sponge.md R110, R115). -/

namespace Sys2Proof.Machine

/-- ABSORB: a write of DIN (42_sponge.md R110). -/
def execAbsorb (v : Word) (s : State) : Host.Outcome State Fault Refusal := operate (latchAbsorb v) s

/-- SQUEEZE: a read of DOUT (42_sponge.md R115). -/
def execSqueeze (s : State) : Host.Outcome State Fault Refusal := operate latchSqueeze s

end Sys2Proof.Machine
end

