-- ==== Sys2Proof/Machine/Readback.lean ====
section
/-! DEFINITION. The meanings of the readback accesses (spec/44_control.md R145 to R148). -/

namespace Sys2Proof.Machine

/-- RD_STATUS (R145): the only access BUSY does not hold (R142). -/
def execRdStatus (s : State) : Host.Outcome State Fault Refusal := .next (s.returnData (statusWord s))

/-- RD_INFO (R146). -/
def execRdInfo (s : State) : Host.Outcome State Fault Refusal := plainRead (fun t => infoWord t.ctx) s

/-- RD_INDEX (R147). -/
def execRdIndex (s : State) : Host.Outcome State Fault Refusal := plainRead (fun t => indexWord t.ctx) s

/-- RD_REM_LO (R148). -/
def execRdRemLo (s : State) : Host.Outcome State Fault Refusal := plainRead (fun t => lowHalf t.ctx.rem) s

/-- RD_REM_HI (R148). -/
def execRdRemHi (s : State) : Host.Outcome State Fault Refusal := plainRead (fun t => highHalf t.ctx.rem) s

end Sys2Proof.Machine
end

