-- ==== Sys2Proof/Machine/Dispatch.lean ====
section
/-! DEFINITION. One arm per constructor of Instr, each a direct call of its meaning. -/

namespace Sys2Proof.Machine

def exec (i : Instr) (s : State) : Host.Outcome State Fault Refusal :=
  match i with
  | .init => Sys2Proof.Machine.execInit s
  | .start fid => Sys2Proof.Machine.execStart fid s
  | .startCshake fid => Sys2Proof.Machine.execStartCshake fid s
  | .finish => Sys2Proof.Machine.execFinish s
  | .reservedCmd w => Sys2Proof.Machine.execReservedCmd w s
  | .absorb v => Sys2Proof.Machine.execAbsorb v s
  | .squeeze => Sys2Proof.Machine.execSqueeze s
  | .rdStatus => Sys2Proof.Machine.execRdStatus s
  | .rdInfo => Sys2Proof.Machine.execRdInfo s
  | .rdIndex => Sys2Proof.Machine.execRdIndex s
  | .rdRemLo => Sys2Proof.Machine.execRdRemLo s
  | .rdRemHi => Sys2Proof.Machine.execRdRemHi s
  | .wrNlenLo v => Sys2Proof.Machine.execWrNlenLo v s
  | .rdNlenLo => Sys2Proof.Machine.execRdNlenLo s
  | .wrNlenHi v => Sys2Proof.Machine.execWrNlenHi v s
  | .rdNlenHi => Sys2Proof.Machine.execRdNlenHi s
  | .wrSlenLo v => Sys2Proof.Machine.execWrSlenLo v s
  | .rdSlenLo => Sys2Proof.Machine.execRdSlenLo s
  | .wrSlenHi v => Sys2Proof.Machine.execWrSlenHi v s
  | .rdSlenHi => Sys2Proof.Machine.execRdSlenHi s
  | .wrOlenLo v => Sys2Proof.Machine.execWrOlenLo v s
  | .rdOlenLo => Sys2Proof.Machine.execRdOlenLo s
  | .wrOlenHi v => Sys2Proof.Machine.execWrOlenHi v s
  | .rdOlenHi => Sys2Proof.Machine.execRdOlenHi s
  | .noEffectRdCmd => Sys2Proof.Machine.execNoEffectRdCmd s
  | .noEffectRdDin => Sys2Proof.Machine.execNoEffectRdDin s
  | .noEffectWrStatus v => Sys2Proof.Machine.execNoEffectWrStatus v s
  | .noEffectWrDout v => Sys2Proof.Machine.execNoEffectWrDout v s
  | .noEffectWrInfo v => Sys2Proof.Machine.execNoEffectWrInfo v s
  | .noEffectWrIndex v => Sys2Proof.Machine.execNoEffectWrIndex v s
  | .noEffectWrRemLo v => Sys2Proof.Machine.execNoEffectWrRemLo v s
  | .noEffectWrRemHi v => Sys2Proof.Machine.execNoEffectWrRemHi v s
  | .noEffectRd38 => Sys2Proof.Machine.execNoEffectRd38 s
  | .noEffectRd3C => Sys2Proof.Machine.execNoEffectRd3C s
  | .noEffectWr38 v => Sys2Proof.Machine.execNoEffectWr38 v s
  | .noEffectWr3C v => Sys2Proof.Machine.execNoEffectWr3C v s

end Sys2Proof.Machine
end

