-- ==== Sys2Proof/Machine/Schedule.lean ====
section
/-! DEFINITION. How the two agents move (spec/44_control.md R140 to R143, 70_reset_and_hazards.md R175, R176): the
engine's step, the host's step, and which of them comes next. Where the spec leaves that order open (a STATUS read or a
reset while an operation is pending), the list `turns` of State decides (DESIGN CHOICE, notes/assumptions/2.md). -/

namespace Sys2Proof.Machine

/-- The next turn is the host's. -/
def hostFirst (s : State) : Bool := s.turns.head? == some .host

/-- What BUSY does not hold: a STATUS read (44_control.md R142), the poll loop made of STATUS reads, and reset
(70_reset_and_hazards.md R176). -/
def neverHeld : Event → Bool
  | .access a => a == .read .word 0x04
  | .reset => true
  | .waitIdle => true

/-- Reset: every piece of the engine's state takes its reset value; a pending operation has no effect; what the host
has read, and what it will do, stays (70_reset_and_hazards.md R175, R176). -/
def assertReset (s : State) : State :=
  { State.reset with reads := s.reads, host := s.host, turns := s.turns }

/-- The refusal of an access that is not admitted (20_memory.md R48, 44_control.md R156). -/
def refusalOf : DecodeError → Refusal
  | .width => .subwordWidth
  | .misaligned => .subwordOffset
  | .outside => .outsideWindow

/-- An instruction performed by the host when BUSY = 0. Where it is an operation and the next turn is the host's, it is
only issued, and stays pending (R141); where the next turn is the engine's, the completion follows in the same step
(R143 allows the two to be one step). A plain access is performed at once and uses no turn. -/
def hostPerforms (i : Instr) (s : State) : Host.Outcome State Fault Refusal :=
  match operationOf i s with
  | none => exec i s
  | some op => if hostFirst s then .next (issue op s.takeTurn) else exec i s.takeTurn

/-- The host's next access, poll or reset, when nothing holds it; `s` is the state without it. -/
def hostStep (e : Event) (s : State) : Host.Outcome State Fault Refusal :=
  match e with
  | .reset => .next (assertReset s)
  | .waitIdle => exec .rdStatus (if s.busy then s.withHost (.waitIdle :: s.host) else s)
  | .access a =>
    match decode a with
    | .error d => .refused (refusalOf d)
    | .ok i => if s.busy then exec i s else hostPerforms i s

/-- The engine's step: the completion, which uses up a turn (R143). -/
def engineStep (s : State) : Host.Outcome State Fault Refusal := .next (complete s.takeTurn)

/-- One step of the machine: while BUSY, the host moves only if it is its turn and nothing holds its next event; else
the engine completes. While not BUSY the host moves; with nothing left to do, nothing happens (R155; DESIGN CHOICE,
notes/assumptions/11.md). -/
def machineStep (s : State) : Host.Outcome State Fault Refusal :=
  match s.host with
  | [] => if s.busy then engineStep s else .next s
  | e :: rest =>
    if s.busy then
      if hostFirst s && neverHeld e then hostStep e (s.takeTurn.withHost rest) else engineStep s
    else hostStep e (s.withHost rest)

/-- The state whose very next step performs the access `a`, whole: the pending operation, if there is one, is complete,
the access is the first thing the host does, and the engine moves first. -/
def State.withAccess (s : State) (a : Access) : State :=
  { settle s with host := .access a :: s.host, turns := [] }

end Sys2Proof.Machine
end

