-- ==== Sys2Proof/Machine/Step.lean ====
section
/-! DEFINITION. One step, and how an instruction is put before it (spec/44_control.md R140). -/

namespace Sys2Proof.Machine

/-- One step of the machine. -/
def step (s : State) : Host.Outcome State Fault Refusal := machineStep s

/-- The state whose next step performs the access that the table's bits stand for (notes/assumptions/1.md, 10.md). -/
def State.withFetchWord (s : State) (nbits w : Nat) : State := s.withAccess (tableAccess nbits w)

end Sys2Proof.Machine
end

