-- ==== Sys2Proof/Machine/Asm.lean ====
section
/-! DEFINITION. Host programs: the lines of the assembler syntax (spec/30_encoding.md R75) and the pseudo-instructions
(R76), as abstract syntax with the accesses they stand for. The host variable a read line names is not kept: what reads
return is in `State.reads`, in order (DESIGN CHOICE, notes/assumptions/14.md). -/

namespace Sys2Proof.Machine

/-- The family names (R75). -/
inductive FamilyName where
  | sha3_224
  | sha3_256
  | sha3_384
  | sha3_512
  | shake128
  | shake256
  | cshake128
  | cshake256
deriving DecidableEq, Repr

/-- A family operand: a name, or a numeric FID 0 to 15 (R75). -/
inductive FamilyArg where
  | name (f : FamilyName)
  | number (fid : BitVec 4)
deriving DecidableEq, Repr

/-- FID(fam) (R75). -/
def FamilyName.fid : FamilyName → BitVec 4
  | .sha3_224 => 1
  | .sha3_256 => 2
  | .sha3_384 => 3
  | .sha3_512 => 4
  | .shake128 => 5
  | .shake256 => 6
  | .cshake128 => 7
  | .cshake256 => 8

/-- The FID of a family operand. -/
def FamilyArg.fid : FamilyArg → BitVec 4
  | .name f => f.fid
  | .number fid => fid

/-- The register names (20_memory.md R47). -/
inductive RegName where
  | cmd
  | status
  | din
  | dout
  | nlenLo
  | nlenHi
  | slenLo
  | slenHi
  | olenLo
  | olenHi
  | info
  | index
  | remLo
  | remHi
deriving DecidableEq, Repr

/-- off(reg) (20_memory.md R47). -/
def RegName.off : RegName → Nat
  | .cmd => 0x00
  | .status => 0x04
  | .din => 0x08
  | .dout => 0x0C
  | .nlenLo => 0x10
  | .nlenHi => 0x14
  | .slenLo => 0x18
  | .slenHi => 0x1C
  | .olenLo => 0x20
  | .olenHi => 0x24
  | .info => 0x28
  | .index => 0x2C
  | .remLo => 0x30
  | .remHi => 0x34

/-- A register operand: a name, or an offset 0x00 to 0x3C that is a multiple of 4, given as its quarter (R75). -/
inductive RegArg where
  | name (r : RegName)
  | offset (quarter : Fin 16)
deriving DecidableEq, Repr

/-- The offset of a register operand. -/
def RegArg.off : RegArg → Nat
  | .name r => r.off
  | .offset quarter => 4 * quarter.val

/-- One line of a host program (R75). -/
inductive Line where
  | init
  | start (fam : FamilyArg)
  | startCshake (fam : FamilyArg)
  | finish
  | cmd (imm : Word)
  | din (imm : Byte)
  | dout
  | wr (reg : RegArg) (imm : Word)
  | rd (reg : RegArg)
deriving DecidableEq, Repr

/-- The access of a line (R75). -/
def Line.access : Line → Access
  | .init => .write .word 0x00 0x00000001
  | .start fam => .write .word 0x00 (fam.fid.setWidth 32 <<< 8 ||| 0x2)
  | .startCshake fam => .write .word 0x00 (fam.fid.setWidth 32 <<< 8 ||| 0x3)
  | .finish => .write .word 0x00 0x00000004
  | .cmd imm => .write .word 0x00 imm
  | .din imm => .write .word 0x08 (imm.setWidth 32)
  | .dout => .read .word 0x0C
  | .wr reg imm => .write .word reg.off imm
  | .rd reg => .read .word reg.off

/-- The 64-bit registers SETLEN names. -/
inductive LengthReg where
  | nlen
  | slen
  | olen
deriving DecidableEq, Repr

/-- The register of the low half. -/
def LengthReg.lo : LengthReg → RegName
  | .nlen => .nlenLo
  | .slen => .slenLo
  | .olen => .olenLo

/-- The register of the high half. -/
def LengthReg.hi : LengthReg → RegName
  | .nlen => .nlenHi
  | .slen => .slenHi
  | .olen => .olenHi

/-- `SETLEN reg, v64`. -/
def setlen (r : LengthReg) (v : Long) : List Line :=
  [.wr (.name r.lo) (lowHalf v), .wr (.name r.hi) (highHalf v)]

/-- `UPDATE X`: a DIN line for each byte. -/
def update (X : List Byte) : List Line := X.map .din

/-- `CSTART fam, N, S`. -/
def cstart (fam : FamilyArg) (N S : List Byte) : List Line :=
  setlen .nlen (BitVec.ofNat 64 N.length) ++ setlen .slen (BitVec.ofNat 64 S.length) ++ [.startCshake fam] ++
    update N ++ update S

/-- `SQUEEZE n -> Y`: n DOUT lines. -/
def squeezeLines (n : Nat) : List Line := List.replicate n .dout

/-- `FINAL olen -> Y`. -/
def finalLines (olen : Long) : List Line := setlen .olen olen ++ [.finish] ++ squeezeLines olen.toNat

/-- `HASH fam, M, olen -> Y`. -/
def hashLines (fam : FamilyArg) (M : List Byte) (olen : Long) : List Line :=
  [.start fam] ++ update M ++ finalLines olen

/-- `CHASH fam, N, S, M, olen -> Y`. -/
def chashLines (fam : FamilyArg) (N S M : List Byte) (olen : Long) : List Line :=
  cstart fam N S ++ update M ++ finalLines olen

/-- The pseudo-instructions (R76). -/
inductive Pseudo where
  | setlen (r : LengthReg) (v : Long)
  | update (X : List Byte)
  | cstart (fam : FamilyArg) (N S : List Byte)
  | squeeze (n : Nat)
  | final (olen : Long)
  | hash (fam : FamilyArg) (M : List Byte) (olen : Long)
  | chash (fam : FamilyArg) (N S M : List Byte) (olen : Long)
  | waitIdle
deriving DecidableEq, Repr

/-- What the host does for a list of lines. -/
def lineEvents (ls : List Line) : List Event := ls.map fun l => .access l.access

/-- The expansion of a pseudo-instruction (R76). WAITIDLE is a loop: `Event.waitIdle`. -/
def Pseudo.events : Pseudo → List Event
  | .setlen r v => lineEvents (Machine.setlen r v)
  | .update X => lineEvents (Machine.update X)
  | .cstart fam N S => lineEvents (Machine.cstart fam N S)
  | .squeeze n => lineEvents (squeezeLines n)
  | .final olen => lineEvents (finalLines olen)
  | .hash fam M olen => lineEvents (hashLines fam M olen)
  | .chash fam N S M olen => lineEvents (chashLines fam N S M olen)
  | .waitIdle => [.waitIdle]

end Sys2Proof.Machine
end

