-- ==== Sys2Proof/Config.lean ====
section
/-! DEFINITION. The open parameters of the engine (spec/00_scope.md R8). None has a value here, so no proof can
lean on one; the fixed parameters of R7 stand where they are used. SUBWORD_ACCESS, the fourth open point, is a
response no rule gives a meaning: the model refuses the access (Machine/State.lean, `Refusal`). -/

namespace Sys2Proof

/-- REG_BASE: the bus address of the register window (R8; 92_eei_decisions.md D2). -/
opaque Config.regBase : Nat

/-- BUS_BYTE_ORDER: the byte lane of the bus that carries each byte of a register (R8, 20_memory.md R52; D5). That the bus
has four byte lanes with one byte of the register on each is the model's choice (DESIGN CHOICE, notes/assumptions/15.md). -/
opaque Config.busByteOrder : Equiv.Perm (Fin 4)

/-- T_CMD: the time of a command without its permutations (R8, 70_reset_and_hazards.md R185; D27). -/
opaque Config.tCmd : PNat

/-- T_DIN: the time of an ABSORB without its permutations (R185). -/
opaque Config.tDin : PNat

/-- T_DOUT: the time of a SQUEEZE without its permutation (R185). -/
opaque Config.tDout : PNat

/-- T_PERM: the time of one KeccakF (R185). -/
opaque Config.tPerm : PNat

end Sys2Proof
end

