-- ==== Sys2Proof/Machine/Bus.lean ====
section
/-! DEFINITION. The bus side of the register window: where the window lies (spec/20_memory.md R45, R56) and how the four
bytes of a register lie on the byte lanes (R52). Both are open parameters, taken here as arguments; `Config` has the
machine's own. That there are four byte lanes is the model's choice (notes/assumptions/15.md). -/

namespace Sys2Proof.Machine

/-- A transfer on the bus, by bus address; a write carries the byte lanes. The spec defines no bus (R52,
70_reset_and_hazards.md R188): four lanes, one byte of the register on each, is the model's choice (DESIGN CHOICE,
notes/assumptions/15.md). -/
inductive Transfer where
  | read (width : Width) (addr : Nat)
  | write (width : Width) (addr : Nat) (data : Vector Byte 4)
deriving DecidableEq, Repr

/-- The offset of a bus address in the window of 64 bytes at `base`; none for an address outside it, which is not the
engine's (R45, R56). -/
def windowOffset (base addr : Nat) : Option Nat :=
  if base ≤ addr ∧ addr < base + 0x40 then some (addr - base) else none

/-- Byte i of a register: bits [8i+7:8i]. -/
def registerByte (w : Word) (i : Fin 4) : Byte := w.extractLsb' (8 * i.val) 8

/-- The register whose bytes are `b 0` to `b 3`. -/
def registerOf (b : Fin 4 → Byte) : Word :=
  (b 3).setWidth 32 <<< 24 ||| (b 2).setWidth 32 <<< 16 ||| (b 1).setWidth 32 <<< 8 ||| (b 0).setWidth 32

/-- A register on the byte lanes: lane `order i` carries byte i (R52). -/
def toLanes (order : Equiv.Perm (Fin 4)) (w : Word) : Vector Byte 4 :=
  Vector.ofFn fun lane => registerByte w (order.symm lane)

/-- The register the byte lanes carry (R52). -/
def fromLanes (order : Equiv.Perm (Fin 4)) (data : Vector Byte 4) : Word := registerOf fun i => data[order i]

/-- The access a transfer is to the engine whose window is at `base`. -/
def Transfer.access (base : Nat) (order : Equiv.Perm (Fin 4)) : Transfer → Option Access
  | .read width addr => (windowOffset base addr).map fun off => .read width off
  | .write width addr data => (windowOffset base addr).map fun off => .write width off (fromLanes order data)

/-- A transfer that reaches this engine becomes the host's last access; one to another address does not reach it. -/
def State.present (s : State) (t : Transfer) : State :=
  match t.access Config.regBase Config.busByteOrder with
  | none => s
  | some a => s.withHost (s.host ++ [.access a])

/-- What the byte lanes carry back for a value read. -/
def readLanes (w : Word) : Vector Byte 4 := toLanes Config.busByteOrder w

end Sys2Proof.Machine
end

