-- ==== Sys2Proof/Machine/Reference.lean ====
section
/-! DEFINITION. Functions the spec gives beside the operations, to say what they compute: the encoding primitives
(spec/43_cshake.md R126 to R128), the session function (42_sponge.md R121), the constructions of the two tables
(40_permutation.md R87, R88), and accesses performed one at a time (20_memory.md R58). No step uses them. -/

namespace Sys2Proof.Machine

/-- encode_string(X) = left_encode(8·|X|) ‖ X (43_cshake.md R126). -/
def encodeString (X : List Byte) : List Byte := leftEncode (8 * X.length) ++ X

/-- bytepad(Z, w): left_encode(w) ‖ Z, then the least number of zero bytes that makes the length a multiple of w
(43_cshake.md R127). -/
def bytepad (Z : List Byte) (w : Nat) : List Byte :=
  let Y := leftEncode w ++ Z
  Y ++ List.replicate ((w - Y.length % w) % w) 0

/-- P(N, S, r) (43_cshake.md R128). -/
def preamble (N S : List Byte) (r : Nat) : List Byte := bytepad (encodeString N ++ encodeString S) r

/-- The first loop of SpongeOut: the state and the offset after the bytes of a message (42_sponge.md R121). -/
def spongeAbsorb (r : Nat) : List Byte → Lanes × Nat → Lanes × Nat
  | [], (P, i) => (P, i)
  | m :: M, (P, i) =>
    let P' := P.xorByte i m
    if i + 1 = r then spongeAbsorb r M (keccakF P', 0) else spongeAbsorb r M (P', i + 1)

/-- The padding of SpongeOut. -/
def spongePad (r : Nat) (s : Byte) : Lanes × Nat → Lanes
  | (P, i) => keccakF ((P.xorByte i s).xorByte (r - 1) 0x80)

/-- The second loop of SpongeOut: n more output bytes. -/
def spongeSqueeze (r : Nat) : Nat → Lanes → Nat → List Byte
  | 0, _, _ => []
  | n + 1, P, i =>
    if i = r then (keccakF P).byteAt 0 :: spongeSqueeze r n (keccakF P) 1
    else P.byteAt i :: spongeSqueeze r n P (i + 1)

/-- SpongeOut(r, s, M, olen) (42_sponge.md R121). -/
def spongeOut (r : Nat) (s : Byte) (M : List Byte) (olen : Nat) : List Byte :=
  spongeSqueeze r olen (spongePad r s (spongeAbsorb r M (Lanes.zero, 0))) 0

/-- The rows of the family table: FID, RATE, DLEN and the suffix after START (41_family_table.md R100). -/
def familyRows : List (BitVec 4 × BitVec 8 × BitVec 8 × Byte) :=
  [(1, 144, 28, 0x06), (2, 136, 32, 0x06), (3, 104, 48, 0x06), (4, 72, 64, 0x06),
   (5, 168, 0, 0x1F), (6, 136, 0, 0x1F), (7, 168, 0, 0x1F), (8, 136, 0, 0x1F)]

/-- The FID and RATE of the families START_CSHAKE takes (41_family_table.md R100, 43_cshake.md R129). -/
def cshakeRows : List (BitVec 4 × BitVec 8) := [(7, 168), (8, 136)]

/-- P_j: KeccakF applied j times (42_sponge.md R119). -/
def keccakIterate : Nat → Lanes → Lanes
  | 0, P => P
  | j + 1, P => keccakF (keccakIterate j P)

/-- The walk of R87 with t from `t` on: the offset is put at (x, y), then (x, y) ← (y, 2x+3y). -/
def rhoWalk : Nat → Nat → Fin 5 → Fin 5 → List ((Fin 5 × Fin 5) × Nat)
  | 0, _, _, _ => []
  | fuel + 1, t, x, y => ((x, y), (t + 1) * (t + 2) / 2 % 64) :: rhoWalk fuel (t + 1) y (2 * x + 3 * y)

/-- One step of the LFSR of R88, feedback polynomial x^8 + x^6 + x^5 + x^4 + 1. -/
def lfsrStep (r : Nat) : Nat := if r / 128 % 2 = 1 then (2 * r) % 256 ^^^ 0x71 else 2 * r

/-- rc(t): bit 0 of the LFSR started from 1, after t mod 255 steps (R88). -/
def lfsrBit (t : Nat) : Bool := (Nat.rec 1 (fun _ r => lfsrStep r) (t % 255) : Nat) % 2 == 1

/-- Instructions performed one after the other (20_memory.md R58). -/
def execAll : List Instr → State → Host.Outcome State Fault Refusal
  | [], s => .next s
  | i :: is, s =>
    match exec i s with
    | .next t => execAll is t
    | .fault f => .fault f
    | .refused r => .refused r

/-- A session: the instructions that begin it, then an ABSORB for each value written to DIN, FINISH, and n
SQUEEZEs (42_sponge.md R117). -/
def sessionInstrs (start : List Instr) (M : List Word) (n : Nat) : List Instr :=
  start ++ (M.map Instr.absorb ++ Instr.finish :: List.replicate n Instr.squeeze)

/-- Accesses performed one at a time, in order, each operation complete before the next access (20_memory.md R58). -/
def performInOrder : List Access → State → Host.Outcome State Fault Refusal
  | [], s => .next s
  | a :: as, s =>
    match decode a with
    | .error d => .refused (refusalOf d)
    | .ok i =>
      match exec i s with
      | .next t => performInOrder as t
      | .fault f => .fault f
      | .refused r => .refused r

end Sys2Proof.Machine
end

