-- ==== Sys2Proof/Machine/Timing.lean ====
section
/-! DEFINITION. How many KeccakF an operation runs and how long it holds BUSY (spec/70_reset_and_hazards.md R185). The
step is untimed, which R185 allows. Here an operation is written as the list of what it does to S; the number of KeccakF
is counted in that list, and the statement PermutationCountsAreThoseOfR185 says that the list is what `perform` does to
S (notes/assumptions/8.md). -/

namespace Sys2Proof.Machine

/-- One change of S. -/
inductive LaneStep where
  /-- S <- 0 (44_control.md R144, 42_sponge.md R107) -/
  | clear
  /-- Sb[j] <- Sb[j] ⊕ b (42_sponge.md R105, R112) -/
  | xor (j : Nat) (b : Byte)
  /-- S <- KeccakF(S), at the points of 40_permutation.md R91 -/
  | permute
deriving DecidableEq, Repr

/-- What a change of S makes of it. -/
def LaneStep.apply (A : Lanes) (k : LaneStep) : Lanes :=
  match k with
  | .clear => Lanes.zero
  | .xor j b => A.xorByte j b
  | .permute => keccakF A

/-- The changes of a list, one after the other. -/
def runLaneSteps (ks : List LaneStep) (A : Lanes) : Lanes := ks.foldl LaneStep.apply A

/-- absorb_byte(b) (42_sponge.md R105). -/
def absorbByteSteps (b : Byte) (c : Context) : List LaneStep :=
  .xor c.index.toNat b :: if c.index + 1 = c.rate then [.permute] else []

/-- absorb_byte over a string. -/
def absorbBytesSteps : List Byte → Context → List LaneStep
  | [], _ => []
  | b :: bs, c => absorbByteSteps b c ++ absorbBytesSteps bs (absorbByte b c)

/-- pad_to_boundary (42_sponge.md R106). -/
def padSteps (c : Context) : List LaneStep := if c.index ≠ 0 then [.permute] else []

/-- preamble_advance (43_cshake.md R135). -/
def advanceSteps (c : Context) : List LaneStep :=
  (if c.phase = .preN ∧ c.rem = 0 then absorbBytesSteps (leftEncode (8 * c.lslen.toNat)) c else []) ++
    (let c' := advanceFromN c
     if c'.phase = .preS ∧ c'.rem = 0 then padSteps c' else [])

/-- preamble_byte(b) (43_cshake.md R133). -/
def preambleByteSteps (b : Byte) (c : Context) : List LaneStep :=
  let c' := absorbByte b c
  absorbByteSteps b c ++ advanceSteps { c' with rem := c'.rem - 1 }

/-- The preamble's beginning in START_CSHAKE (43_cshake.md R129). -/
def beginPreambleSteps (c : Context) (nlen slen : Long) : List LaneStep :=
  let header := leftEncode c.rate.toNat ++ leftEncode (8 * nlen.toNat)
  let c0 := { c with suffix := 0x04 }
  absorbBytesSteps header c0 ++
    advanceSteps { absorbBytes header c0 with rem := nlen, lslen := slen, phase := .preN }

/-- What an operation does to S. -/
def laneSteps (op : Op) (c : Context) : List LaneStep :=
  match op with
  | .init => [.clear]
  | .start _ => [.clear]
  | .startCshake fid nlen slen =>
    .clear ::
      if (performStartCshake fid nlen slen).verdict = .badInputData ∨ (nlen = 0 ∧ slen = 0) then []
      else
        match lookupFamily fid with
        | none => []
        | some row => beginPreambleSteps (beginSession fid { row with dlen := 0, suffix := 0x1F }) nlen slen
  | .finish olen =>
    if (performFinish olen c).verdict = .success then
      [.xor c.index.toNat c.suffix, .xor (c.rate.toNat - 1) 0x80, .permute]
    else []
  | .absorb b =>
    match c.phase with
    | .absorbing => absorbByteSteps b c
    | .preN => preambleByteSteps b c
    | .preS => preambleByteSteps b c
    | .initial => []
    | .squeezing => []
    | .finalized => []
  | .squeeze => if c.phase = .squeezing ∧ c.index + 1 = c.rate ∧ c.rem - 1 ≠ 0 then [.permute] else []
  | .reserved => []

/-- The number of KeccakF an operation runs (R185). -/
def keccakRuns (op : Op) (c : Context) : Nat := (laneSteps op c).count .permute

/-- The base latency of an operation (R185). -/
def baseLatency : Op → Nat
  | .init => Config.tCmd
  | .start _ => Config.tCmd
  | .startCshake _ _ _ => Config.tCmd
  | .finish _ => Config.tCmd
  | .absorb _ => Config.tDin
  | .squeeze => Config.tDout
  | .reserved => Config.tCmd

/-- How long an operation holds BUSY = 1: its base latency plus T_PERM times its KeccakF (R185). -/
def latency (op : Op) (c : Context) : Nat := baseLatency op + Config.tPerm * keccakRuns op c

end Sys2Proof.Machine
end

