-- ==== Sys2Proof/Safety.lean ====
section
/-! DEFINITION. What claims are stated in: the invariants of the state (spec/10_state.md R26, R30), the end of a run
(44_control.md R155), and the states a completed operation leaves (60_exceptions.md R161, 44_control.md R143). -/

namespace Sys2Proof.Machine

/-- The invariants of the context between operations (10_state.md R26), by phase. -/
abbrev Context.Inv (c : Context) : Prop :=
  (c.phase = .initial → c = Context.zero) ∧
  (c.phase ≠ .initial →
    (lookupFamily c.fid).map (fun row => (row.rate, row.dlen)) = some (c.rate, c.dlen) ∧ c.index < c.rate) ∧
  (c.phase = .absorbing →
    c.rem = 0 ∧ c.lslen = 0 ∧
    (isSha3 c.fid = true → c.suffix = 0x06) ∧
    (c.fid = 5 ∨ c.fid = 6 → c.suffix = 0x1F) ∧
    (isCshake c.fid = true → c.suffix = 0x1F ∨ c.suffix = 0x04)) ∧
  (c.phase = .preN ∨ c.phase = .preS →
    isCshake c.fid = true ∧ c.suffix = 0x04 ∧ c.rem ≠ 0 ∧ c.lslen.toNat < 2 ^ 61) ∧
  (c.phase = .squeezing → c.rem ≠ 0 ∧ c.lslen = 0) ∧
  (c.phase = .finalized → c.rem = 0 ∧ c.lslen = 0)

/-- The invariants of the state: those of the context, and PEND is none exactly when BUSY = 0 (10_state.md R26, R30). -/
abbrev State.Inv (s : State) : Prop := s.ctx.Inv ∧ s.busy = s.pend.isSome

/-- The end of a run: the host has no further access and BUSY = 0 (44_control.md R155). -/
abbrev State.runEnded (s : State) : Prop := s.host = [] ∧ s.busy = false

/-- What the host will do next holds only admitted accesses: no step of the run is refused for it (44_control.md R156). -/
abbrev State.safeQueue (s : State) : Prop := ∀ a, Event.access a ∈ s.host → a.admitted

/-- The state an operation leaves that succeeded with the context `c`: LAST_ERR 0, STICKY_ERR unchanged, nothing
pending (60_exceptions.md R161, 44_control.md R143). -/
def State.afterSuccess (s : State) (c : Context) : State :=
  { s with ctx := c, lastErr := false, pend := none, busy := false }

/-- The state an operation leaves that raised BadInputData with the context `c`: LAST_ERR 1, STICKY_ERR 1, nothing
pending (60_exceptions.md R161, 44_control.md R143). -/
def State.afterError (s : State) (c : Context) : State :=
  { s with ctx := c, lastErr := true, stickyErr := true, pend := none, busy := false }

/-- Two states that differ at most in S, the secret of a session (70_reset_and_hazards.md R184). -/
def State.sameButLanes (s t : State) : Prop := ∃ L, t = { s with ctx := { s.ctx with lanes := L } }

end Sys2Proof.Machine
end

