-- ==== Sys2Proof/Certificates/Slice0/Obligations.lean ====
section
/-! DEFINITION. The statements for the provers, from the numbered rules of spec/. -/

open Sys2Proof Sys2Proof.Machine

/-- After reset every piece of the engine's state is 0, PHASE is INITIAL and PEND is none.
spec/10_state.md R34: the table of reset values. -/
def Obligations.ResetHoldsTheSpecValues : Prop :=
  (∀ x y, State.reset.ctx.lanes.lane x y = 0) ∧
  State.reset.ctx.rate = 0 ∧ State.reset.ctx.dlen = 0 ∧ State.reset.ctx.suffix = 0 ∧ State.reset.ctx.fid = 0 ∧
  State.reset.ctx.index = 0 ∧ State.reset.ctx.rem = 0 ∧ State.reset.ctx.lslen = 0 ∧
  State.reset.ctx.phase = .initial ∧
  State.reset.busy = false ∧ State.reset.lastErr = false ∧ State.reset.stickyErr = false ∧
  State.reset.pend = none ∧
  State.reset.nlen = 0 ∧ State.reset.slen = 0 ∧ State.reset.olen = 0

/-- The reset state meets the invariants of R26 and R30.
spec/10_state.md R26, "established by reset", and R30. -/
def Obligations.ResetMeetsTheInvariant : Prop :=
  State.reset.Inv

/-- Every step of the machine keeps the invariants of R26 and R30.
spec/10_state.md R26, "preserved by every operation", and R30, over every step: accesses, completions, resets and polls. -/
def Obligations.EveryStepKeepsTheInvariant : Prop :=
  ∀ s t : State, s.Inv → step s = .next t → t.Inv

/-- Reset sets every piece of state to its reset value and aborts a pending operation.
spec/70_reset_and_hazards.md R175, and R176 for the pending operation, which is aborted. R175 says any time; that reset is performed in its place in the host's list, at BUSY = 1 where the turn list gives the host the move, is the model's choice (DESIGN CHOICE, notes/assumptions/2.md). That what reads have returned and what the host does next are kept is the model's choice too (DESIGN CHOICE, notes/assumptions/4.md and 2.md). -/
def Obligations.AssertedResetRestoresTheResetState : Prop :=
  ∀ (s : State) (rest : List Event), s.host = .reset :: rest →
    (s.busy = false ∨ s.turns.head? = some .host) →
    ∃ t, step s = .next t ∧ t.ctx = Context.zero ∧ t.nlen = 0 ∧ t.slen = 0 ∧ t.olen = 0 ∧
      t.busy = false ∧ t.lastErr = false ∧ t.stickyErr = false ∧ t.pend = none ∧
      t.reads = s.reads ∧ t.host = rest

/-- Decode and encode agree on every well-formed instruction.
spec/30_encoding.md R70, R73 and R77: no bit of an operand is dropped. -/
def Obligations.DecodingAnEncodedInstructionGivesItBack : Prop :=
  ∀ i : Instr, i.wellFormed = true → decode (encode i) = .ok i

/-- An access has one meaning: encoding what it decodes to gives the access back.
spec/44_control.md R156 ("exactly one meaning") with 30_encoding.md R77. -/
def Obligations.EveryDecodedAccessEncodesBack : Prop :=
  ∀ (a : Access) (i : Instr), decode a = .ok i → i.wellFormed = true ∧ encode i = a

/-- Exactly the aligned 32-bit accesses inside the window decode; the others are refused by name.
spec/20_memory.md R46, R48 and 44_control.md R156. The order of the three tests is the model's (notes/assumptions/5.md). -/
def Obligations.DecodeAnswersExactlyTheAdmittedAccesses : Prop :=
  ∀ a : Access,
    ((∃ i, decode a = .ok i) ↔ a.width = .word ∧ a.off % 4 = 0 ∧ a.off < 0x40) ∧
    (a.width ≠ .word → decode a = .error .width) ∧
    (a.width = .word → a.off % 4 ≠ 0 → decode a = .error .misaligned) ∧
    (a.width = .word → a.off % 4 = 0 → 0x40 ≤ a.off → decode a = .error .outside)

/-- A command word decodes as RESERVED exactly when R69 calls it reserved.
spec/30_encoding.md R69 against the pseudocode of R70. -/
def Obligations.ReservedCommandWordsAreThoseOfR69 : Prop :=
  ∀ w : Word, decodeCommand w = .reservedCmd w ↔
    (w.extractLsb' 0 4 = 0 ∨ 5 ≤ (w.extractLsb' 0 4).toNat ∨ w.extractLsb' 4 4 ≠ 0 ∨ w.extractLsb' 12 20 ≠ 0 ∨
      ((w.extractLsb' 0 4 = 1 ∨ w.extractLsb' 0 4 = 4) ∧ w.extractLsb' 8 4 ≠ 0))

/-- The opcode map: command words by match and mask, register accesses by access code.
spec/30_encoding.md R77, the whole table. -/
def Obligations.OpcodeMapSelectsEveryOperation : Prop :=
  (∀ w : Word,
    (decode (ofAccessCode 0x100 w) = .ok .init ↔ w &&& 0xFFFFFFFF = 0x00000001) ∧
    (∀ fid, decode (ofAccessCode 0x100 w) = .ok (.start fid) ↔
      w &&& 0xFFFFF0FF = 0x00000002 ∧ fid = w.extractLsb' 8 4) ∧
    (∀ fid, decode (ofAccessCode 0x100 w) = .ok (.startCshake fid) ↔
      w &&& 0xFFFFF0FF = 0x00000003 ∧ fid = w.extractLsb' 8 4) ∧
    (decode (ofAccessCode 0x100 w) = .ok .finish ↔ w &&& 0xFFFFFFFF = 0x00000004) ∧
    (decode (ofAccessCode 0x100 w) = .ok (.reservedCmd w) ↔
      w ≠ 1 ∧ w ≠ 4 ∧ w &&& 0xFFFFF0FF ≠ 2 ∧ w &&& 0xFFFFF0FF ≠ 3)) ∧
  (∀ v : Word,
    decode (ofAccessCode 0x108 v) = .ok (.absorb v) ∧ decode (ofAccessCode 0x00C v) = .ok .squeeze ∧
    decode (ofAccessCode 0x004 v) = .ok .rdStatus ∧ decode (ofAccessCode 0x028 v) = .ok .rdInfo ∧
    decode (ofAccessCode 0x02C v) = .ok .rdIndex ∧
    decode (ofAccessCode 0x030 v) = .ok .rdRemLo ∧ decode (ofAccessCode 0x034 v) = .ok .rdRemHi ∧
    decode (ofAccessCode 0x110 v) = .ok (.wrNlenLo v) ∧ decode (ofAccessCode 0x114 v) = .ok (.wrNlenHi v) ∧
    decode (ofAccessCode 0x010 v) = .ok .rdNlenLo ∧ decode (ofAccessCode 0x014 v) = .ok .rdNlenHi ∧
    decode (ofAccessCode 0x118 v) = .ok (.wrSlenLo v) ∧ decode (ofAccessCode 0x11C v) = .ok (.wrSlenHi v) ∧
    decode (ofAccessCode 0x018 v) = .ok .rdSlenLo ∧ decode (ofAccessCode 0x01C v) = .ok .rdSlenHi ∧
    decode (ofAccessCode 0x120 v) = .ok (.wrOlenLo v) ∧ decode (ofAccessCode 0x124 v) = .ok (.wrOlenHi v) ∧
    decode (ofAccessCode 0x020 v) = .ok .rdOlenLo ∧ decode (ofAccessCode 0x024 v) = .ok .rdOlenHi ∧
    decode (ofAccessCode 0x000 v) = .ok .noEffectRdCmd ∧ decode (ofAccessCode 0x008 v) = .ok .noEffectRdDin ∧
    decode (ofAccessCode 0x104 v) = .ok (.noEffectWrStatus v) ∧
    decode (ofAccessCode 0x10C v) = .ok (.noEffectWrDout v) ∧
    decode (ofAccessCode 0x128 v) = .ok (.noEffectWrInfo v) ∧
    decode (ofAccessCode 0x12C v) = .ok (.noEffectWrIndex v) ∧
    decode (ofAccessCode 0x130 v) = .ok (.noEffectWrRemLo v) ∧
    decode (ofAccessCode 0x134 v) = .ok (.noEffectWrRemHi v) ∧
    decode (ofAccessCode 0x038 v) = .ok .noEffectRd38 ∧ decode (ofAccessCode 0x03C v) = .ok .noEffectRd3C ∧
    decode (ofAccessCode 0x138 v) = .ok (.noEffectWr38 v) ∧ decode (ofAccessCode 0x13C v) = .ok (.noEffectWr3C v))

/-- Words written out from the encoding tables decode to their operations.
spec/30_encoding.md R75 (the word of each line); a sanity statement. -/
def Obligations.WordsWrittenFromTheSpecDecode : Prop :=
  decode (.write .word 0x00 0x00000202) = .ok (.start 2) ∧
  decode (.write .word 0x00 0x00000703) = .ok (.startCshake 7) ∧
  decode (.write .word 0x00 0x00000001) = .ok .init ∧
  decode (.write .word 0x00 0x00000004) = .ok .finish ∧
  decode (.write .word 0x00 0x00000012) = .ok (.reservedCmd 0x12) ∧
  decode (.write .word 0x08 0xFFFFFF61) = .ok (.absorb 0xFFFFFF61) ∧
  decode (.read .word 0x0C) = .ok .squeeze ∧
  decode (.write .word 0x1C 0x20000000) = .ok (.wrSlenHi 0x20000000)

/-- A step at BUSY = 0 performs the instruction the host's next access decodes to.
spec/44_control.md R140 to R143. What the step adds around exec is the model's choice: the access leaves the host's queue, and an operation uses up one turn (DESIGN CHOICE, notes/assumptions/1.md and 2.md). -/
def Obligations.StepPerformsTheDecodedAccess : Prop :=
  (∀ (s : State) (a : Access) (rest : List Event) (i : Instr),
    s.busy = false → s.host = .access a :: rest → decode a = .ok i →
      (operationOf i s = none → step s = exec i { s with host := rest }) ∧
      (operationOf i s ≠ none → s.turns.head? ≠ some .host →
        step s = exec i { s with host := rest, turns := s.turns.tail })) ∧
  (∀ (s : State) (a : Access) (i : Instr), decode a = .ok i →
    step (s.withAccess a) = exec i { settle s with turns := [] })

/-- Issuing an operation and completing it later gives what the access gives as a whole.
spec/44_control.md R141 (issue), R143 (completion, and that the two may be one step). That the host's turn leaves the operation pending and uses up one turn (turns := ts) is the model's choice (DESIGN CHOICE, notes/assumptions/2.md), and that exec is the access as a whole is the model's inference (DEDUCED, notes/assumptions/3.md). -/
def Obligations.IssueThenCompletionEqualsTheWholeAccess : Prop :=
  ∀ (s : State) (a : Access) (rest : List Event) (ts : List Turn) (i : Instr) (op : Op),
    s.busy = false → s.host = .access a :: rest → s.turns = .host :: ts → decode a = .ok i →
    operationOf i s = some op →
    ∃ t, step s = .next t ∧ t.busy = true ∧ t.pend = some op ∧ t.ctx = s.ctx ∧
      t.nlen = s.nlen ∧ t.slen = s.slen ∧ t.olen = s.olen ∧ t.lastErr = s.lastErr ∧ t.stickyErr = s.stickyErr ∧
      exec i { s with host := rest, turns := ts } = .next (complete t)

/-- While BUSY, the step is the completion unless the host moves and its next event is not held.
spec/44_control.md R142 (stall) and R143 (the engine has a step exactly when BUSY = 1). That the engine moves first where the turn list is empty, and that each completion takes the tail of turns, is the model's choice (DESIGN CHOICE, notes/assumptions/2.md). -/
def Obligations.EngineCompletesUnlessAnUnheldAccessMovesFirst : Prop :=
  ∀ s : State, s.busy = true →
    (s.host = [] ∨ s.turns.head? ≠ some .host ∨
      ∃ e rest, s.host = e :: rest ∧ e ≠ .access (.read .word 0x04) ∧ e ≠ .reset ∧ e ≠ .waitIdle) →
    step s = .next (complete { s with turns := s.turns.tail })

/-- A STATUS read while BUSY = 1 returns BUSY = 1 and the status from before the pending operation.
The word returned is that of spec/44_control.md R142, R145 and 20_memory.md R58. The hypothesis turns = host :: ts and the result turns := ts are the model's schedule (DESIGN CHOICE, notes/assumptions/2.md). -/
def Obligations.StatusReadIsNotHeldByBusy : Prop :=
  ∀ (s : State) (rest : List Event) (ts : List Turn), s.busy = true →
    s.host = .access (.read .word 0x04) :: rest → s.turns = .host :: ts →
    ∃ w : Word, step s = .next { s with host := rest, turns := ts, reads := s.reads ++ [w] } ∧
      w.getLsbD 0 = true ∧ w.extractLsb' 1 3 = s.ctx.phase.code ∧ w.getLsbD 4 = s.lastErr ∧
      w.getLsbD 5 = s.stickyErr ∧ w.extractLsb' 6 26 = 0

/-- WAITIDLE reads STATUS, and reads again as long as BUSY is 1.
spec/30_encoding.md R76, the row WAITIDLE. Keeping the loop as one event, and the turn it uses up, is the model's choice (DESIGN CHOICE, notes/assumptions/14.md and 2.md). -/
def Obligations.WaitIdlePollsUntilBusyIsZero : Prop :=
  ∀ (s : State) (rest : List Event), s.host = .waitIdle :: rest →
    (s.busy = false → step s = .next { s with host := rest, reads := s.reads ++ [statusWord s] }) ∧
    (∀ ts, s.busy = true → s.turns = .host :: ts →
      step s = .next { s with turns := ts, reads := s.reads ++ [statusWord s] })

/-- The machine stops exactly at an access that is not admitted, and is refused there.
spec/60_exceptions.md R174 and 44_control.md R156. The order of the refusals (width, alignment, window) in the third clause is the model's choice (DESIGN CHOICE, notes/assumptions/5.md); that no step faults rests on the type Fault having no constructor, which is the model's inference (DEDUCED, notes/assumptions/13.md). -/
def Obligations.OnlyInadmissibleAccessesStopTheMachine : Prop :=
  (∀ (s : State) (f : Fault), step s ≠ .fault f) ∧
  (∀ (s : State) (r : Refusal), step s = .refused r →
    s.busy = false ∧ ∃ a rest, s.host = .access a :: rest ∧ ¬ a.admitted) ∧
  (∀ (s : State) (a : Access) (rest : List Event), s.busy = false → s.host = .access a :: rest →
    (a.width ≠ .word → step s = .refused .subwordWidth) ∧
    (a.width = .word → a.off % 4 ≠ 0 → step s = .refused .subwordOffset) ∧
    (a.width = .word → a.off % 4 = 0 → 0x40 ≤ a.off → step s = .refused .outsideWindow))

/-- Every instruction answers a next state in every state, with nothing left pending unless it is a STATUS read.
spec/60_exceptions.md R162 ("every operation is total on every state") and 44_control.md R156. -/
def Obligations.EveryInstructionCompletesInEveryState : Prop :=
  ∀ (i : Instr) (s : State), ∃ t, exec i s = .next t ∧
    (i ≠ .rdStatus → t.busy = false) ∧ (i = .rdStatus → t.busy = s.busy) ∧
    t.host = s.host ∧ t.turns = s.turns ∧
    ((∃ off, encode i = .read .word off) → ∃ w, t.reads = s.reads ++ [w]) ∧
    ((∃ off v, encode i = .write .word off v) → t.reads = s.reads)

/-- An access that BUSY holds has the effect it has after the pending operation completes.
spec/44_control.md R142 ("performed only after the pending operation completes", R58) and 70_reset_and_hazards.md R183. -/
def Obligations.HeldAccessIsPerformedOnTheCompletedState : Prop :=
  ∀ (i : Instr) (s : State), s.busy = true → i ≠ .rdStatus → exec i s = exec i (complete s)

/-- Completion performs the pending operation, writes the status and clears the latch.
spec/44_control.md R143 and 60_exceptions.md R161. -/
def Obligations.CompletionRecordsTheOutcome : Prop :=
  ∀ (s : State) (op : Op), s.pend = some op →
    (complete s).ctx = (perform op s.ctx).ctx ∧
    ((complete s).lastErr = true ↔ (perform op s.ctx).verdict = .badInputData) ∧
    ((complete s).stickyErr = true ↔
      (perform op s.ctx).verdict = .badInputData ∨ (op ≠ .init ∧ s.stickyErr = true)) ∧
    (complete s).pend = none ∧ (complete s).busy = false ∧
    (complete s).nlen = s.nlen ∧ (complete s).slen = s.slen ∧ (complete s).olen = s.olen ∧
    (complete s).reads = s.reads ∧ (complete s).host = s.host ∧ (complete s).turns = s.turns

/-- Once BUSY = 1, BUSY is 0 again after at most one step more than there are turns.
spec/70_reset_and_hazards.md R186: completion is weakly fair. That each step taken before it uses up a turn is the model's form of it (notes/assumptions/2.md). -/
def Obligations.BusyEndsAfterFinitelyManySteps : Prop :=
  ∀ s : State, s.busy = true →
    ∃ k t, k ≤ s.turns.length + 1 ∧ Host.Core.run core k s = .next t ∧ State.busy t = false

/-- Whatever the order of the two agents, a run gives what the accesses give one at a time, in order.
spec/20_memory.md R58: sequential consistency for one host. STATUS reads, which BUSY does not hold, are left out here: StatusReadReturnsTheStatusBits and StatusReadIsNotHeldByBusy are about them. -/
def Obligations.EverySchedulePerformsTheAccessesInOrder : Prop :=
  ∀ (as : List Access) (s : State), (∀ a ∈ as, a.admitted ∧ a ≠ .read .word 0x04) → s.busy = false →
    s.host = as.map .access →
    ∃ k t u, Host.Core.run core k s = .next t ∧ State.runEnded t ∧ performInOrder as s = .next u ∧
      t = { u with host := [], turns := State.turns t }

/-- INIT clears the context, LAST_ERR and STICKY_ERR, in every phase, and keeps the lengths.
spec/44_control.md R144. -/
def Obligations.InitClearsTheContext : Prop :=
  ∀ s : State, s.busy = false →
    exec .init s = .next { s with
      ctx := { lanes := Lanes.zero, rate := 0, dlen := 0, suffix := 0, fid := 0, index := 0, rem := 0, lslen := 0,
               phase := .initial }
      lastErr := false, stickyErr := false, pend := none }

/-- A reserved command word raises BadInputData and changes no context field.
spec/44_control.md R152. -/
def Obligations.ReservedWordWritesOnlyTheStatus : Prop :=
  ∀ (w : Word) (s : State), s.busy = false →
    exec (.reservedCmd w) s = .next { s with lastErr := true, stickyErr := true, pend := none }

/-- RD_STATUS returns BUSY, PHASE, LAST_ERR and STICKY_ERR in their bits and changes nothing.
spec/44_control.md R145, with the codes of 10_state.md R25. -/
def Obligations.StatusReadReturnsTheStatusBits : Prop :=
  ∀ s : State, ∃ w : Word, exec .rdStatus s = .next { s with reads := s.reads ++ [w] } ∧
    w.getLsbD 0 = s.busy ∧
    w.extractLsb' 1 3 = (match s.ctx.phase with
      | .initial => 0 | .absorbing => 1 | .preN => 2 | .preS => 3 | .squeezing => 4 | .finalized => 5) ∧
    w.getLsbD 4 = s.lastErr ∧ w.getLsbD 5 = s.stickyErr ∧ w.extractLsb' 6 26 = 0

/-- RD_INFO returns RATE, DLEN, SUFFIX and FID in their bits and changes nothing.
spec/44_control.md R146. -/
def Obligations.InfoReadReturnsTheParameters : Prop :=
  ∀ s : State, s.busy = false → ∃ w : Word, exec .rdInfo s = .next { s with reads := s.reads ++ [w] } ∧
    w.extractLsb' 0 8 = s.ctx.rate ∧ w.extractLsb' 8 8 = s.ctx.dlen ∧ w.extractLsb' 16 8 = s.ctx.suffix ∧
    w.extractLsb' 24 4 = s.ctx.fid ∧ w.extractLsb' 28 4 = 0

/-- RD_INDEX, RD_REM_LO and RD_REM_HI return INDEX and the halves of REM and change nothing.
spec/44_control.md R147 and R148. -/
def Obligations.IndexAndRemReadsReturnTheCounters : Prop :=
  ∀ s : State, s.busy = false →
    exec .rdIndex s = .next { s with reads := s.reads ++ [s.ctx.index.setWidth 32] } ∧
    ∃ lo hi : Word, hi ++ lo = s.ctx.rem ∧
      exec .rdRemLo s = .next { s with reads := s.reads ++ [lo] } ∧
      exec .rdRemHi s = .next { s with reads := s.reads ++ [hi] }

/-- The twelve accesses of NLEN, SLEN and OLEN read and write one half of their register and nothing else.
spec/44_control.md R149 to R151. -/
def Obligations.LengthAccessesReadAndWriteHalves : Prop :=
  ∀ (v : Word) (s : State), s.busy = false →
    exec (.wrNlenLo v) s = .next { s with nlen := s.nlen.extractLsb' 32 32 ++ v } ∧
    exec (.wrNlenHi v) s = .next { s with nlen := v ++ s.nlen.extractLsb' 0 32 } ∧
    exec .rdNlenLo s = .next { s with reads := s.reads ++ [s.nlen.extractLsb' 0 32] } ∧
    exec .rdNlenHi s = .next { s with reads := s.reads ++ [s.nlen.extractLsb' 32 32] } ∧
    exec (.wrSlenLo v) s = .next { s with slen := s.slen.extractLsb' 32 32 ++ v } ∧
    exec (.wrSlenHi v) s = .next { s with slen := v ++ s.slen.extractLsb' 0 32 } ∧
    exec .rdSlenLo s = .next { s with reads := s.reads ++ [s.slen.extractLsb' 0 32] } ∧
    exec .rdSlenHi s = .next { s with reads := s.reads ++ [s.slen.extractLsb' 32 32] } ∧
    exec (.wrOlenLo v) s = .next { s with olen := s.olen.extractLsb' 32 32 ++ v } ∧
    exec (.wrOlenHi v) s = .next { s with olen := v ++ s.olen.extractLsb' 0 32 } ∧
    exec .rdOlenLo s = .next { s with reads := s.reads ++ [s.olen.extractLsb' 0 32] } ∧
    exec .rdOlenHi s = .next { s with reads := s.reads ++ [s.olen.extractLsb' 32 32] }

/-- Writing LO and then HI gives the length zext_64(HI) << 32 | zext_64(LO), which the command latches.
spec/30_encoding.md R72 and 20_memory.md R52. -/
def Obligations.TwoHalfWritesAssembleTheLength : Prop :=
  ∀ (lo hi : Word) (s : State) (fid : BitVec 4), s.busy = false →
    (∃ t u, exec (.wrNlenLo lo) s = .next t ∧ exec (.wrNlenHi hi) t = .next u ∧
      operationOf (.startCshake fid) u = some (.startCshake fid (hi.setWidth 64 <<< 32 ||| lo.setWidth 64) s.slen)) ∧
    (∃ t u, exec (.wrSlenLo lo) s = .next t ∧ exec (.wrSlenHi hi) t = .next u ∧
      operationOf (.startCshake fid) u = some (.startCshake fid s.nlen (hi.setWidth 64 <<< 32 ||| lo.setWidth 64))) ∧
    (∃ t u, exec (.wrOlenLo lo) s = .next t ∧ exec (.wrOlenHi hi) t = .next u ∧
      operationOf .finish u = some (.finish (hi.setWidth 64 <<< 32 ||| lo.setWidth 64)))

/-- The twelve accesses with no effect: a read returns 0, a write changes nothing, no status is written.
spec/44_control.md R153, 20_memory.md R49 and R50. -/
def Obligations.NoEffectAccessesChangeNothing : Prop :=
  ∀ (v : Word) (s : State), s.busy = false →
    exec .noEffectRdCmd s = .next { s with reads := s.reads ++ [0] } ∧
    exec .noEffectRdDin s = .next { s with reads := s.reads ++ [0] } ∧
    exec .noEffectRd38 s = .next { s with reads := s.reads ++ [0] } ∧
    exec .noEffectRd3C s = .next { s with reads := s.reads ++ [0] } ∧
    exec (.noEffectWrStatus v) s = .next s ∧ exec (.noEffectWrDout v) s = .next s ∧
    exec (.noEffectWrInfo v) s = .next s ∧ exec (.noEffectWrIndex v) s = .next s ∧
    exec (.noEffectWrRemLo v) s = .next s ∧ exec (.noEffectWrRemHi v) s = .next s ∧
    exec (.noEffectWr38 v) s = .next s ∧ exec (.noEffectWr3C v) s = .next s

/-- RATE, DLEN, SUFFIX and FID, the lengths, and STICKY_ERR are written only by the instructions the spec names.
spec/10_state.md R24 (column "written by"), R28, R29, 41_family_table.md R102, 70_reset_and_hazards.md R179 and R181. -/
def Obligations.OnlyTheNamedInstructionsWriteEachRegister : Prop :=
  ∀ (i : Instr) (s t : State), exec i s = .next t →
    (s.busy = false → (∀ fid, i ≠ .start fid) → (∀ fid, i ≠ .startCshake fid) → i ≠ .init →
      t.ctx.rate = s.ctx.rate ∧ t.ctx.dlen = s.ctx.dlen ∧ t.ctx.suffix = s.ctx.suffix ∧ t.ctx.fid = s.ctx.fid) ∧
    ((∀ v, i ≠ .wrNlenLo v) → (∀ v, i ≠ .wrNlenHi v) → t.nlen = s.nlen) ∧
    ((∀ v, i ≠ .wrSlenLo v) → (∀ v, i ≠ .wrSlenHi v) → t.slen = s.slen) ∧
    ((∀ v, i ≠ .wrOlenLo v) → (∀ v, i ≠ .wrOlenHi v) → t.olen = s.olen) ∧
    (s.busy = false → i ≠ .init → s.stickyErr = true → t.stickyErr = true) ∧
    (s.busy = false → operationOf i s = none →
      t.ctx = s.ctx ∧ t.lastErr = s.lastErr ∧ t.stickyErr = s.stickyErr)

/-- START begins a session with the family's parameters and a zero state; an unknown FID clears the context.
spec/42_sponge.md R107, with the rows of 41_family_table.md R100. -/
def Obligations.StartBeginsASessionOrClears : Prop :=
  ∀ s : State, s.busy = false →
    (∀ fid rate dlen suffix, (fid, rate, dlen, suffix) ∈ familyRows →
      exec (.start fid) s = .next (s.afterSuccess
        { lanes := Lanes.zero, rate := rate, dlen := dlen, suffix := suffix, fid := fid, index := 0, rem := 0,
          lslen := 0, phase := .absorbing })) ∧
    (∀ fid : BitVec 4, fid = 0 ∨ 9 ≤ fid.toNat → exec (.start fid) s = .next (s.afterError Context.zero))

/-- Two STARTs of the same family leave what one START leaves.
spec/42_sponge.md R109. R109 marks itself as derived from R107. -/
def Obligations.StartTwiceIsStartOnce : Prop :=
  ∀ (fid : BitVec 4) (s : State), ∃ t, exec (.start fid) s = .next t ∧ exec (.start fid) t = .next t

/-- START of a cSHAKE FID, and START_CSHAKE with empty N and S, act as START of the SHAKE of the same rate.
spec/42_sponge.md R108 and 43_cshake.md R138. -/
def Obligations.CshakeWithoutStringsIsShake : Prop :=
  ∀ (s : State) (shake cshake : BitVec 4), (shake, cshake) ∈ [((5 : BitVec 4), (7 : BitVec 4)), (6, 8)] →
    s.busy = false →
    ∃ t, exec (.start shake) s = .next t ∧
      exec (.start cshake) s = .next { t with ctx := { t.ctx with fid := cshake } } ∧
      (s.nlen = 0 → s.slen = 0 →
        exec (.startCshake cshake) s = .next { t with ctx := { t.ctx with fid := cshake } })

/-- ABSORB XORs one byte at INDEX and permutes at the rate boundary; in the other phases it fails.
spec/42_sponge.md R105 and R110. -/
def Obligations.AbsorbTakesOneByte : Prop :=
  ∀ (v : Word) (s : State), s.busy = false →
    (s.ctx.phase = .absorbing → s.ctx.index + 1 ≠ s.ctx.rate →
      exec (.absorb v) s = .next (s.afterSuccess { s.ctx with
        lanes := s.ctx.lanes.xorByte s.ctx.index.toNat (v.extractLsb' 0 8), index := s.ctx.index + 1 })) ∧
    (s.ctx.phase = .absorbing → s.ctx.index + 1 = s.ctx.rate →
      exec (.absorb v) s = .next (s.afterSuccess { s.ctx with
        lanes := keccakF (s.ctx.lanes.xorByte s.ctx.index.toNat (v.extractLsb' 0 8)), index := 0 })) ∧
    (s.ctx.phase = .preN ∨ s.ctx.phase = .preS →
      exec (.absorb v) s = .next (s.afterSuccess (preambleByte (v.extractLsb' 0 8) s.ctx))) ∧
    (s.ctx.phase = .initial ∨ s.ctx.phase = .squeezing ∨ s.ctx.phase = .finalized →
      exec (.absorb v) s = .next (s.afterError s.ctx))

/-- FINISH injects suffix and pad, permutes and arms the output; each failing case leaves the state R112 gives.
spec/42_sponge.md R112; the order of the tests is 60_exceptions.md R163. -/
def Obligations.FinishPadsOrFails : Prop :=
  ∀ s : State, s.busy = false →
    (s.ctx.phase = .initial → exec .finish s = .next (s.afterError s.ctx)) ∧
    (s.ctx.phase ≠ .initial → s.ctx.phase ≠ .absorbing →
      exec .finish s = .next (s.afterError { s.ctx with phase := .finalized, rem := 0, lslen := 0 })) ∧
    (s.ctx.phase = .absorbing → s.ctx.dlen ≠ 0 → s.olen ≠ s.ctx.dlen.setWidth 64 →
      exec .finish s = .next (s.afterError { s.ctx with phase := .finalized, rem := 0 })) ∧
    (s.ctx.phase = .absorbing → s.ctx.dlen = 0 ∨ s.olen = s.ctx.dlen.setWidth 64 →
      exec .finish s = .next (s.afterSuccess { s.ctx with
        lanes := keccakF ((s.ctx.lanes.xorByte s.ctx.index.toNat s.ctx.suffix).xorByte (s.ctx.rate.toNat - 1) 0x80)
        index := 0, rem := s.olen, phase := if s.olen = 0 then .finalized else .squeezing }))

/-- In ABSORBING, FINISH succeeds exactly if OLEN is the digest length of a SHA3 family, and always for an XOF.
spec/42_sponge.md R114. -/
def Obligations.FinishSucceedsExactlyForLegalLengths : Prop :=
  ∀ s : State, s.busy = false → s.ctx.Inv → s.ctx.phase = .absorbing →
    ∃ t, exec .finish s = .next t ∧
      (t.lastErr = false ↔
        (s.ctx.fid = 1 → s.olen = 28) ∧ (s.ctx.fid = 2 → s.olen = 32) ∧ (s.ctx.fid = 3 → s.olen = 48) ∧
        (s.ctx.fid = 4 → s.olen = 64))

/-- SQUEEZE returns Sb[INDEX], counts REM down and permutes only at the end of a window with more owed.
spec/42_sponge.md R115. -/
def Obligations.SqueezeReturnsTheNextByte : Prop :=
  ∀ s : State, s.busy = false →
    (s.ctx.phase ≠ .squeezing → exec .squeeze s = .next { s.afterError s.ctx with reads := s.reads ++ [0] }) ∧
    (s.ctx.phase = .squeezing →
      ∃ c, exec .squeeze s = .next { s.afterSuccess c with
          reads := s.reads ++ [(s.ctx.lanes.byteAt s.ctx.index.toNat).setWidth 32] } ∧
        (s.ctx.index + 1 ≠ s.ctx.rate →
          c = { s.ctx with index := s.ctx.index + 1, rem := s.ctx.rem - 1,
                           phase := if s.ctx.rem - 1 = 0 then .finalized else .squeezing }) ∧
        (s.ctx.index + 1 = s.ctx.rate → s.ctx.rem - 1 ≠ 0 →
          c = { s.ctx with lanes := keccakF s.ctx.lanes, index := 0, rem := s.ctx.rem - 1 }) ∧
        (s.ctx.index + 1 = s.ctx.rate → s.ctx.rem - 1 = 0 →
          c = { s.ctx with index := 0, rem := 0, phase := .finalized }))

/-- The padding changes Sb[INDEX] by SUFFIX and Sb[RATE-1] by 0x80, both in one byte when INDEX = RATE-1.
spec/42_sponge.md R113 (a) and (b). -/
def Obligations.PaddingBytesMeetInTheLastByte : Prop :=
  ∀ s : State, s.busy = false → s.ctx.Inv → s.ctx.phase = .absorbing →
    (s.ctx.dlen = 0 ∨ s.olen = s.ctx.dlen.setWidth 64) →
    ∃ (t : State) (P : Lanes), exec .finish s = .next t ∧ t.ctx.lanes = keccakF P ∧
      (s.ctx.index.toNat = s.ctx.rate.toNat - 1 → ∀ j < 200, P.byteAt j =
        if j = s.ctx.index.toNat then s.ctx.lanes.byteAt j ^^^ (s.ctx.suffix ^^^ 0x80) else s.ctx.lanes.byteAt j) ∧
      (s.ctx.index.toNat ≠ s.ctx.rate.toNat - 1 → ∀ j < 200, P.byteAt j =
        if j = s.ctx.index.toNat then s.ctx.lanes.byteAt j ^^^ s.ctx.suffix
        else if j = s.ctx.rate.toNat - 1 then s.ctx.lanes.byteAt j ^^^ 0x80
        else s.ctx.lanes.byteAt j)

/-- Below the rate boundary, ABSORB changes exactly the byte Sb[INDEX], inside the rate window.
spec/10_state.md R23 (absorption XORs only into the rate window) and 42_sponge.md R105. -/
def Obligations.AbsorbChangesOneByteOfTheWindow : Prop :=
  ∀ (v : Word) (s : State), s.busy = false → s.ctx.Inv → s.ctx.phase = .absorbing →
    s.ctx.index + 1 ≠ s.ctx.rate →
    s.ctx.index.toNat < s.ctx.rate.toNat ∧
    ∃ t, exec (.absorb v) s = .next t ∧
      ∀ j < 200, t.ctx.lanes.byteAt j =
        if j = s.ctx.index.toNat then s.ctx.lanes.byteAt j ^^^ v.extractLsb' 0 8 else s.ctx.lanes.byteAt j

/-- Sb[j] is byte j mod 8 of lane j div 8, little-endian, and a write of Sb[j] changes that byte alone.
spec/10_state.md R22. -/
def Obligations.ByteViewIsLittleEndianAndWritesOneByte : Prop :=
  ∀ A : Lanes,
    (∀ (x y : Fin 5) (i : Nat), i < 8 →
      A.byteAt (8 * (x.val + 5 * y.val) + i) = (A.lane x y).extractLsb' (8 * i) 8) ∧
    (∀ (j k : Nat) (v : Byte), j < 200 → k < 200 →
      (A.setByte j v).byteAt k = if k = j then v else A.byteAt k) ∧
    (∀ B : Lanes, (∀ j < 200, A.byteAt j = B.byteAt j) → A = B)

/-- pad_to_boundary is absorbing RATE - INDEX zero bytes, or none when INDEX = 0.
spec/42_sponge.md R106. R106 marks itself as derived from R105. -/
def Obligations.PadToBoundaryAbsorbsZeroBytes : Prop :=
  ∀ c : Context, c.index.toNat < c.rate.toNat →
    (c.index = 0 → padToBoundary c = c) ∧
    (c.index ≠ 0 → padToBoundary c = absorbBytes (List.replicate (c.rate.toNat - c.index.toNat) 0) c)

/-- A run of ABSORBs leaves what absorb_byte over the bytes leaves, for every partition of the message.
spec/42_sponge.md R111. R111 marks itself as derived from R105 and R110. -/
def Obligations.AbsorbingIsTheSameHoweverTheMessageIsCut : Prop :=
  ∀ (M : List Word) (s : State), s.busy = false → s.ctx.phase = .absorbing →
    ∃ t, execAll (M.map .absorb) s = .next t ∧
      t.ctx = absorbBytes (M.map fun v => v.extractLsb' 0 8) s.ctx ∧ (M ≠ [] → t.lastErr = false) ∧
      t.stickyErr = s.stickyErr ∧ t.reads = s.reads ∧
      ∀ A B, A ++ B = M → ∃ u, execAll (A.map .absorb) s = .next u ∧ execAll (B.map .absorb) u = .next t

/-- A run of HASH fam, M, olen returns SpongeOut(RATE, suffix, M, olen), in every order of the two agents.
spec/42_sponge.md R121 (the session function) through the pseudo-instruction HASH of 30_encoding.md R76. -/
def Obligations.HashRunReturnsTheSpongeOutput : Prop :=
  ∀ (fam : FamilyArg) (M : List Byte) (olen : Long) (rate dlen : BitVec 8) (suffix : Byte) (s : State),
    (fam.fid, rate, dlen, suffix) ∈ familyRows → (dlen = 0 ∨ olen = dlen.setWidth 64) →
    s.busy = false → s.host = (Pseudo.hash fam M olen).events →
    ∃ k t, Host.Core.run core k s = .next t ∧ State.runEnded t ∧ (State.ctx t).phase = .finalized ∧
      State.lastErr t = false ∧ State.stickyErr t = s.stickyErr ∧
      State.reads t = s.reads ++ (spongeOut rate.toNat suffix M olen.toNat).map (fun b => b.setWidth 32)

/-- For an XOF family the output of a shorter olen is a prefix of that of a longer one, however the session began.
spec/42_sponge.md R117, for SHAKE and cSHAKE and "from an equivalent context". -/
def Obligations.ShorterXofOutputIsAPrefix : Prop :=
  ∀ (start : List Instr) (M : List Word) (olen1 olen2 : Long) (s : State), s.busy = false →
    ((∃ fid, isXof fid = true ∧ start = [Instr.start fid]) ∨
      (∃ (fid : BitVec 4) (N S : List Byte), isCshake fid = true ∧ N.length < 2 ^ 61 ∧ S.length < 2 ^ 61 ∧
        s.nlen = BitVec.ofNat 64 N.length ∧ s.slen = BitVec.ofNat 64 S.length ∧
        start = Instr.startCshake fid :: (N ++ S).map fun b => Instr.absorb (b.setWidth 32)) ∨
      (start = [] ∧ s.ctx.Inv ∧ s.ctx.phase = .absorbing ∧ isXof s.ctx.fid = true)) →
    olen1.toNat < olen2.toNat →
    ∃ t1 t2 Y1 Y2,
      execAll (sessionInstrs start M olen1.toNat) { s with olen := olen1 } = .next t1 ∧
      execAll (sessionInstrs start M olen2.toNat) { s with olen := olen2 } = .next t2 ∧
      t1.reads = s.reads ++ Y1 ∧ t2.reads = s.reads ++ Y2 ∧ Y1.length = olen1.toNat ∧ Y2.length = olen2.toNat ∧
      Y1 = Y2.take olen1.toNat

/-- The n-th output byte of a session is byte n mod RATE of KeccakF applied n div RATE times.
spec/42_sponge.md R119; the end is R123. R119 marks itself as derived from R112 and R115. -/
def Obligations.OutputIsTheWindowsOfIteratedKeccakF : Prop :=
  ∀ (s : State) (n : Nat), s.busy = false → s.ctx.Inv → s.ctx.phase = .squeezing → s.ctx.index = 0 →
    n ≤ s.ctx.rem.toNat →
    ∃ t, execAll (List.replicate n .squeeze) s = .next t ∧ (0 < n → t.lastErr = false) ∧
      t.reads = s.reads ++ (List.range n).map (fun k =>
        ((keccakIterate (k / s.ctx.rate.toNat) s.ctx.lanes).byteAt (k % s.ctx.rate.toNat)).setWidth 32) ∧
      (n = s.ctx.rem.toNat → t.ctx.phase = .finalized ∧
        exec .squeeze t = .next { t.afterError t.ctx with reads := t.reads ++ [0] })

/-- FINISH with OLEN = 0 in an XOF session succeeds, permutes, and leaves FINALIZED with nothing to read.
spec/42_sponge.md R118. -/
def Obligations.EmptyOutputEndsTheSession : Prop :=
  ∀ s : State, s.busy = false → s.ctx.Inv → s.ctx.phase = .absorbing → s.olen = 0 →
    (isXof s.ctx.fid = true →
      ∃ t, exec .finish s = .next t ∧ t.lastErr = false ∧ t.ctx.phase = .finalized ∧ t.ctx.index = 0 ∧
        t.ctx.rem = 0 ∧
        t.ctx.lanes =
          keccakF ((s.ctx.lanes.xorByte s.ctx.index.toNat s.ctx.suffix).xorByte (s.ctx.rate.toNat - 1) 0x80) ∧
        exec .squeeze t = .next { t.afterError t.ctx with reads := t.reads ++ [0] }) ∧
    (isSha3 s.ctx.fid = true →
      exec .finish s = .next (s.afterError { s.ctx with phase := .finalized, rem := 0 }))

/-- left_encode(x) is the least byte count that holds x, then x big-endian in that many bytes.
spec/43_cshake.md R125. -/
def Obligations.LeftEncodeIsMinimalBigEndian : Prop :=
  (∀ x : Nat, x < 2 ^ 64 → ∃ (n : Nat) (bs : List Byte),
    leftEncode x = BitVec.ofNat 8 n :: bs ∧ bs.length = n ∧ 1 ≤ n ∧ n ≤ 8 ∧
    bs.foldl (fun (v : Nat) b => 256 * v + b.toNat) 0 = x ∧ (n = 1 ∨ 2 ^ (8 * (n - 1)) ≤ x)) ∧
  leftEncode 0 = [0x01, 0x00]

/-- The cSHAKE preamble begins with left_encode(r), holds both strings, and is whole rate blocks long.
spec/43_cshake.md R126 to R128. -/
def Obligations.PreambleIsWholeBlocksOfTheRate : Prop :=
  ∀ (N S : List Byte) (r : Nat), r = 168 ∨ r = 136 →
    (∃ k, k < r ∧ preamble N S r =
      leftEncode r ++ leftEncode (8 * N.length) ++ N ++ leftEncode (8 * S.length) ++ S ++ List.replicate k 0) ∧
    (preamble N S r).length % r = 0 ∧ r ≤ (preamble N S r).length

/-- START_CSHAKE: the failing cases, the empty-both shortcut, and the header of the preamble.
spec/43_cshake.md R129, R130 and R131. The shortcut is spelled out again in R131, which marks itself as derived. -/
def Obligations.StartCshakeBeginsThePreambleOrClears : Prop :=
  ∀ s : State, s.busy = false →
    (∀ fid : BitVec 4, (fid ≠ 7 ∧ fid ≠ 8) ∨ 2 ^ 61 ≤ s.nlen.toNat ∨ 2 ^ 61 ≤ s.slen.toNat →
      exec (.startCshake fid) s = .next (s.afterError Context.zero)) ∧
    (∀ fid rate, (fid, rate) ∈ cshakeRows → s.nlen = 0 → s.slen = 0 →
      exec (.startCshake fid) s = .next (s.afterSuccess
        { lanes := Lanes.zero, rate := rate, dlen := 0, suffix := 0x1F, fid := fid, index := 0, rem := 0, lslen := 0,
          phase := .absorbing })) ∧
    (∀ fid rate, (fid, rate) ∈ cshakeRows → s.nlen.toNat < 2 ^ 61 → s.slen.toNat < 2 ^ 61 →
      ¬ (s.nlen = 0 ∧ s.slen = 0) →
      ∃ c, c = absorbBytes (leftEncode rate.toNat ++ leftEncode (8 * s.nlen.toNat))
          { lanes := Lanes.zero, rate := rate, dlen := 0, suffix := 0x04, fid := fid, index := 0, rem := 0, lslen := 0,
            phase := .absorbing } ∧
        exec (.startCshake fid) s = .next (s.afterSuccess
          (preambleAdvance { c with rem := s.nlen, lslen := s.slen, phase := .preN })))

/-- After START_CSHAKE with a string, the engine waits in PRE_N or PRE_S with INDEX past the header.
spec/43_cshake.md R129, corner cases and example. -/
def Obligations.StartCshakeWaitsForTheStrings : Prop :=
  ∀ (s : State) (fid : BitVec 4) (rate : BitVec 8), (fid, rate) ∈ cshakeRows → s.busy = false →
    s.nlen.toNat < 2 ^ 61 → s.slen.toNat < 2 ^ 61 → ¬ (s.nlen = 0 ∧ s.slen = 0) →
    ∃ t, exec (.startCshake fid) s = .next t ∧ t.lastErr = false ∧ t.ctx.suffix = 0x04 ∧ t.ctx.rate = rate ∧
      t.ctx.fid = fid ∧ t.ctx.dlen = 0 ∧ t.ctx.lslen = s.slen ∧ t.ctx.index.toNat ≤ 13 ∧
      (s.nlen ≠ 0 → t.ctx.phase = .preN ∧ t.ctx.rem = s.nlen ∧
        t.ctx.index.toNat = 2 + (leftEncode (8 * s.nlen.toNat)).length) ∧
      (s.nlen = 0 → t.ctx.phase = .preS ∧ t.ctx.rem = s.slen ∧
        t.ctx.index.toNat = 4 + (leftEncode (8 * s.slen.toNat)).length)

/-- A string byte is absorbed, REM goes down, and a finished string moves the sequencer on.
spec/43_cshake.md R133 and R135. -/
def Obligations.StringBytesMoveThePreambleOn : Prop :=
  ∀ (v : Word) (s : State) (c : Context), s.busy = false → s.ctx.phase = .preN ∨ s.ctx.phase = .preS →
    c = { absorbByte (v.extractLsb' 0 8) s.ctx with rem := s.ctx.rem - 1 } →
    (c.rem ≠ 0 → exec (.absorb v) s = .next (s.afterSuccess c)) ∧
    (s.ctx.phase = .preN → c.rem = 0 → s.ctx.lslen ≠ 0 →
      exec (.absorb v) s = .next (s.afterSuccess
        { absorbBytes (leftEncode (8 * s.ctx.lslen.toNat)) c with rem := s.ctx.lslen, phase := .preS })) ∧
    (s.ctx.phase = .preN → c.rem = 0 → s.ctx.lslen = 0 →
      exec (.absorb v) s = .next (s.afterSuccess
        { padToBoundary (absorbBytes [0x01, 0x00] c) with rem := 0, lslen := 0, phase := .absorbing })) ∧
    (s.ctx.phase = .preS → c.rem = 0 →
      exec (.absorb v) s = .next (s.afterSuccess { padToBoundary c with lslen := 0, phase := .absorbing }))

/-- START_CSHAKE and the bytes of N and S leave what absorbing P(N, S, RATE) from the zero state leaves.
spec/43_cshake.md R136. R136 marks itself as derived from R125 to R135. -/
def Obligations.PreambleRunAbsorbsTheFramedStrings : Prop :=
  ∀ (s : State) (fid : BitVec 4) (rate : BitVec 8) (N S : List Byte), (fid, rate) ∈ cshakeRows →
    s.busy = false → N.length < 2 ^ 61 → S.length < 2 ^ 61 → ¬ (N = [] ∧ S = []) →
    s.nlen = BitVec.ofNat 64 N.length → s.slen = BitVec.ofNat 64 S.length →
    ∃ t, execAll (.startCshake fid :: (N ++ S).map fun b => .absorb (b.setWidth 32)) s = .next t ∧
      t.lastErr = false ∧ t.ctx.phase = .absorbing ∧ t.ctx.index = 0 ∧ t.ctx.rem = 0 ∧
      t.ctx.lanes = (absorbBytes (preamble N S rate.toNat) { Context.zero with rate := rate }).lanes ∧
      t.ctx.index = (absorbBytes (preamble N S rate.toNat) { Context.zero with rate := rate }).index

/-- A run of CHASH returns SpongeOut of the preamble and the message, or of the message alone for empty strings.
spec/43_cshake.md R137 through the pseudo-instruction CHASH of 30_encoding.md R76. -/
def Obligations.CshakeRunReturnsTheSpongeOutput : Prop :=
  ∀ (fam : FamilyArg) (N S M : List Byte) (olen : Long) (rate : BitVec 8) (s : State),
    (fam.fid, rate) ∈ cshakeRows → N.length < 2 ^ 61 → S.length < 2 ^ 61 →
    s.busy = false → s.host = (Pseudo.chash fam N S M olen).events →
    ∃ k t, Host.Core.run core k s = .next t ∧ State.runEnded t ∧ (State.ctx t).phase = .finalized ∧
      State.lastErr t = false ∧ State.stickyErr t = s.stickyErr ∧
      State.reads t = s.reads ++
        (if N = [] ∧ S = [] then spongeOut rate.toNat 0x1F M olen.toNat
          else spongeOut rate.toNat 0x04 (preamble N S rate.toNat ++ M) olen.toNat).map (fun b => b.setWidth 32)

/-- Each of θ, ρ, π, χ and ι gives every lane the value its rule gives.
spec/40_permutation.md R81 to R85, with rotl64 as 00_scope.md R10 defines it. The ρ clause is the formula of R82 with the offsets of the table, which R82 marks as general knowledge (notes/assumptions/9.md); the values of RC are those of R86, marked the same way. -/
def Obligations.StagesComputeTheirLanes : Prop :=
  ∀ (A : Lanes) (x y : Fin 5),
    (theta A).lane x y = A.lane x y ^^^ ((List.finRange 5).foldl (fun c r => c ^^^ A.lane (x - 1) r) 0 ^^^
      rotl64 ((List.finRange 5).foldl (fun c r => c ^^^ A.lane (x + 1) r) 0) 1) ∧
    (∀ z < 64, ((rho A).lane x y).getLsbD ((z + rhoOffset x y) % 64) = (A.lane x y).getLsbD z) ∧
    (pi A).lane y (2 * x + 3 * y) = A.lane x y ∧
    (chi A).lane x y = A.lane x y ^^^ (~~~ A.lane (x + 1) y &&& A.lane (x + 2) y) ∧
    (∀ i, (iota A i).lane x y = if x = 0 ∧ y = 0 then A.lane 0 0 ^^^ roundConstant i else A.lane x y) ∧
    ((∀ u, columnParity A u = 0) → theta A = A)

/-- KeccakF is 24 rounds of θ, ρ, π, χ and ι, in that order, with RC[0] to RC[23].
spec/40_permutation.md R89 and R92. R92 marks the increasing order of the rounds, with RC[i] in round i, as general knowledge (notes/assumptions/9.md). -/
def Obligations.KeccakFIsTheTwentyFourRounds : Prop :=
  ∀ (A : Lanes) (f : Nat → Lanes), f 0 = A →
    (∀ i < 24, f (i + 1) = iota (chi (pi (rho (theta (f i))))) i) → keccakF A = f 24

/-- The ρ offsets and the round constants are those of the constructions of R87 and R88.
spec/40_permutation.md R87 and R88 against the tables of R82 and R86. Both rules mark themselves as general knowledge (notes/assumptions/9.md). -/
def Obligations.TablesFollowTheirConstructions : Prop :=
  rhoOffset 0 0 = 0 ∧
  (∀ p ∈ rhoWalk 24 0 1 0, rhoOffset p.1.1 p.1.2 = p.2) ∧
  ((0, 0) :: (rhoWalk 24 0 1 0).map Prod.fst).Nodup ∧
  (∀ i < 24, ∀ j < 7, (roundConstant i).getLsbD (2 ^ j - 1) = lfsrBit (j + 7 * i)) ∧
  (∀ i < 24, ∀ z < 64, z ∉ [0, 1, 3, 7, 15, 31, 63] → (roundConstant i).getLsbD z = false)

/-- Neither S nor a byte absorbed decides anything but S and the bytes SQUEEZE returns, nor any latency.
spec/70_reset_and_hazards.md R184 and 10_state.md R32. The latency is that of R185 as Machine/Timing.lean counts it (notes/assumptions/8.md). -/
def Obligations.SecretsSteerNothingButTheOutputBytes : Prop :=
  ∀ (s : State) (L : Lanes),
    (∀ (i : Instr) (t : State), i ≠ .squeeze → exec i s = .next t →
      ∃ L', exec i { s with ctx := { s.ctx with lanes := L } } =
        .next { t with ctx := { t.ctx with lanes := L' } }) ∧
    (∀ t : State, exec .squeeze s = .next t →
      ∃ (L' : Lanes) (w : Word), exec .squeeze { s with ctx := { s.ctx with lanes := L } } =
        .next { t with ctx := { t.ctx with lanes := L' }, reads := s.reads ++ [w] }) ∧
    (∀ (v v' : Word) (t : State), exec (.absorb v) s = .next t →
      ∃ L', exec (.absorb v') s = .next { t with ctx := { t.ctx with lanes := L' } }) ∧
    (∀ op : Op, latency op { s.ctx with lanes := L } = latency op s.ctx) ∧
    (∀ b b' : Byte, latency (.absorb b) s.ctx = latency (.absorb b') s.ctx)

/-- What each operation does to S, how many KeccakF are in it, and that it holds BUSY for its base latency plus T_PERM each.
spec/70_reset_and_hazards.md R185, with the points of 40_permutation.md R91. The first clause ties the count to perform: the list holds one KeccakF for each that the operation applies to S, and it is the same for every value of S. The latencies are constants without a value (DESIGN CHOICE, notes/assumptions/8.md). -/
def Obligations.PermutationCountsAreThoseOfR185 : Prop :=
  (∀ (op : Op) (c : Context) (L : Lanes),
    (perform op { c with lanes := L }).ctx.lanes = runLaneSteps (laneSteps op c) L ∧
    keccakRuns op c = (laneSteps op c).count .permute) ∧
  (∀ c : Context, c.Inv →
    keccakRuns .init c = 0 ∧ (∀ fid, keccakRuns (.start fid) c = 0) ∧ keccakRuns .reserved c = 0 ∧
    (∀ fid nlen slen, keccakRuns (.startCshake fid nlen slen) c = 0) ∧
    (∀ olen, keccakRuns (.finish olen) c =
      if c.phase = .absorbing ∧ (c.dlen = 0 ∨ olen = c.dlen.setWidth 64) then 1 else 0) ∧
    (keccakRuns .squeeze c = if c.phase = .squeezing ∧ c.index + 1 = c.rate ∧ c.rem ≠ 1 then 1 else 0) ∧
    (∀ b, c.phase = .absorbing → keccakRuns (.absorb b) c = if c.index + 1 = c.rate then 1 else 0) ∧
    (∀ b, c.phase = .preN ∨ c.phase = .preS → keccakRuns (.absorb b) c ≤ 2) ∧
    (∀ b, c.phase = .initial ∨ c.phase = .squeezing ∨ c.phase = .finalized → keccakRuns (.absorb b) c = 0) ∧
    (∀ op, 0 < latency op c ∧ latency op c =
      (match op with
        | .absorb _ => (Config.tDin : Nat)
        | .squeeze => (Config.tDout : Nat)
        | _ => (Config.tCmd : Nat)) + Config.tPerm * keccakRuns op c))

/-- For every byte order of the bus and every window base, the engine sees the register value and the offset.
spec/20_memory.md R45, R52 and 00_scope.md R8: no functional result depends on the open parameters. That the bus has four byte lanes, each with one byte of the register, is the model's choice (DESIGN CHOICE, notes/assumptions/15.md). -/
def Obligations.BusByteOrderAndWindowBaseDoNotMatter : Prop :=
  (∀ (order : Equiv.Perm (Fin 4)) (w : Word), fromLanes order (toLanes order w) = w) ∧
  (∀ base addr off : Nat, windowOffset base addr = some off ↔ addr = base + off ∧ off < 0x40) ∧
  (∀ (base : Nat) (order : Equiv.Perm (Fin 4)) (width : Width) (off : Nat) (v : Word), off < 0x40 →
    (Transfer.write width (base + off) (toLanes order v)).access base order = some (.write width off v) ∧
    (Transfer.read width (base + off)).access base order = some (.read width off))
end

