-- ==== Sys2Proof/Laws/State.lean ====
section
/-! SUPPORT. One lemma per field per update of the state, so that no proof unfolds a record update. -/

namespace Sys2Proof.Machine

variable (s : State)

@[simp] theorem State.withContext_ctx (c : Context) : (s.withContext c).ctx = c := rfl
@[simp] theorem State.withContext_nlen (c : Context) : (s.withContext c).nlen = s.nlen := rfl
@[simp] theorem State.withContext_slen (c : Context) : (s.withContext c).slen = s.slen := rfl
@[simp] theorem State.withContext_olen (c : Context) : (s.withContext c).olen = s.olen := rfl
@[simp] theorem State.withContext_busy (c : Context) : (s.withContext c).busy = s.busy := rfl
@[simp] theorem State.withContext_lastErr (c : Context) : (s.withContext c).lastErr = s.lastErr := rfl
@[simp] theorem State.withContext_stickyErr (c : Context) : (s.withContext c).stickyErr = s.stickyErr := rfl
@[simp] theorem State.withContext_pend (c : Context) : (s.withContext c).pend = s.pend := rfl
@[simp] theorem State.withContext_reads (c : Context) : (s.withContext c).reads = s.reads := rfl
@[simp] theorem State.withContext_host (c : Context) : (s.withContext c).host = s.host := rfl
@[simp] theorem State.withContext_turns (c : Context) : (s.withContext c).turns = s.turns := rfl

@[simp] theorem State.withNlen_ctx (v : Long) : (s.withNlen v).ctx = s.ctx := rfl
@[simp] theorem State.withNlen_nlen (v : Long) : (s.withNlen v).nlen = v := rfl
@[simp] theorem State.withNlen_slen (v : Long) : (s.withNlen v).slen = s.slen := rfl
@[simp] theorem State.withNlen_olen (v : Long) : (s.withNlen v).olen = s.olen := rfl
@[simp] theorem State.withNlen_busy (v : Long) : (s.withNlen v).busy = s.busy := rfl
@[simp] theorem State.withNlen_lastErr (v : Long) : (s.withNlen v).lastErr = s.lastErr := rfl
@[simp] theorem State.withNlen_stickyErr (v : Long) : (s.withNlen v).stickyErr = s.stickyErr := rfl
@[simp] theorem State.withNlen_pend (v : Long) : (s.withNlen v).pend = s.pend := rfl
@[simp] theorem State.withNlen_reads (v : Long) : (s.withNlen v).reads = s.reads := rfl
@[simp] theorem State.withNlen_host (v : Long) : (s.withNlen v).host = s.host := rfl
@[simp] theorem State.withNlen_turns (v : Long) : (s.withNlen v).turns = s.turns := rfl

@[simp] theorem State.withSlen_ctx (v : Long) : (s.withSlen v).ctx = s.ctx := rfl
@[simp] theorem State.withSlen_nlen (v : Long) : (s.withSlen v).nlen = s.nlen := rfl
@[simp] theorem State.withSlen_slen (v : Long) : (s.withSlen v).slen = v := rfl
@[simp] theorem State.withSlen_olen (v : Long) : (s.withSlen v).olen = s.olen := rfl
@[simp] theorem State.withSlen_busy (v : Long) : (s.withSlen v).busy = s.busy := rfl
@[simp] theorem State.withSlen_lastErr (v : Long) : (s.withSlen v).lastErr = s.lastErr := rfl
@[simp] theorem State.withSlen_stickyErr (v : Long) : (s.withSlen v).stickyErr = s.stickyErr := rfl
@[simp] theorem State.withSlen_pend (v : Long) : (s.withSlen v).pend = s.pend := rfl
@[simp] theorem State.withSlen_reads (v : Long) : (s.withSlen v).reads = s.reads := rfl
@[simp] theorem State.withSlen_host (v : Long) : (s.withSlen v).host = s.host := rfl
@[simp] theorem State.withSlen_turns (v : Long) : (s.withSlen v).turns = s.turns := rfl

@[simp] theorem State.withOlen_ctx (v : Long) : (s.withOlen v).ctx = s.ctx := rfl
@[simp] theorem State.withOlen_nlen (v : Long) : (s.withOlen v).nlen = s.nlen := rfl
@[simp] theorem State.withOlen_slen (v : Long) : (s.withOlen v).slen = s.slen := rfl
@[simp] theorem State.withOlen_olen (v : Long) : (s.withOlen v).olen = v := rfl
@[simp] theorem State.withOlen_busy (v : Long) : (s.withOlen v).busy = s.busy := rfl
@[simp] theorem State.withOlen_lastErr (v : Long) : (s.withOlen v).lastErr = s.lastErr := rfl
@[simp] theorem State.withOlen_stickyErr (v : Long) : (s.withOlen v).stickyErr = s.stickyErr := rfl
@[simp] theorem State.withOlen_pend (v : Long) : (s.withOlen v).pend = s.pend := rfl
@[simp] theorem State.withOlen_reads (v : Long) : (s.withOlen v).reads = s.reads := rfl
@[simp] theorem State.withOlen_host (v : Long) : (s.withOlen v).host = s.host := rfl
@[simp] theorem State.withOlen_turns (v : Long) : (s.withOlen v).turns = s.turns := rfl

@[simp] theorem State.returnData_ctx (v : Word) : (s.returnData v).ctx = s.ctx := rfl
@[simp] theorem State.returnData_nlen (v : Word) : (s.returnData v).nlen = s.nlen := rfl
@[simp] theorem State.returnData_slen (v : Word) : (s.returnData v).slen = s.slen := rfl
@[simp] theorem State.returnData_olen (v : Word) : (s.returnData v).olen = s.olen := rfl
@[simp] theorem State.returnData_busy (v : Word) : (s.returnData v).busy = s.busy := rfl
@[simp] theorem State.returnData_lastErr (v : Word) : (s.returnData v).lastErr = s.lastErr := rfl
@[simp] theorem State.returnData_stickyErr (v : Word) : (s.returnData v).stickyErr = s.stickyErr := rfl
@[simp] theorem State.returnData_pend (v : Word) : (s.returnData v).pend = s.pend := rfl
@[simp] theorem State.returnData_reads (v : Word) : (s.returnData v).reads = s.reads ++ [v] := rfl
@[simp] theorem State.returnData_host (v : Word) : (s.returnData v).host = s.host := rfl
@[simp] theorem State.returnData_turns (v : Word) : (s.returnData v).turns = s.turns := rfl

@[simp] theorem State.latch_ctx (op : Op) : (s.latch op).ctx = s.ctx := rfl
@[simp] theorem State.latch_nlen (op : Op) : (s.latch op).nlen = s.nlen := rfl
@[simp] theorem State.latch_slen (op : Op) : (s.latch op).slen = s.slen := rfl
@[simp] theorem State.latch_olen (op : Op) : (s.latch op).olen = s.olen := rfl
@[simp] theorem State.latch_busy (op : Op) : (s.latch op).busy = true := rfl
@[simp] theorem State.latch_lastErr (op : Op) : (s.latch op).lastErr = s.lastErr := rfl
@[simp] theorem State.latch_stickyErr (op : Op) : (s.latch op).stickyErr = s.stickyErr := rfl
@[simp] theorem State.latch_pend (op : Op) : (s.latch op).pend = some op := rfl
@[simp] theorem State.latch_reads (op : Op) : (s.latch op).reads = s.reads := rfl
@[simp] theorem State.latch_host (op : Op) : (s.latch op).host = s.host := rfl
@[simp] theorem State.latch_turns (op : Op) : (s.latch op).turns = s.turns := rfl

@[simp] theorem State.release_ctx : (s.release).ctx = s.ctx := rfl
@[simp] theorem State.release_nlen : (s.release).nlen = s.nlen := rfl
@[simp] theorem State.release_slen : (s.release).slen = s.slen := rfl
@[simp] theorem State.release_olen : (s.release).olen = s.olen := rfl
@[simp] theorem State.release_busy : (s.release).busy = false := rfl
@[simp] theorem State.release_lastErr : (s.release).lastErr = s.lastErr := rfl
@[simp] theorem State.release_stickyErr : (s.release).stickyErr = s.stickyErr := rfl
@[simp] theorem State.release_pend : (s.release).pend = none := rfl
@[simp] theorem State.release_reads : (s.release).reads = s.reads := rfl
@[simp] theorem State.release_host : (s.release).host = s.host := rfl
@[simp] theorem State.release_turns : (s.release).turns = s.turns := rfl

@[simp] theorem State.clearSticky_ctx : (s.clearSticky).ctx = s.ctx := rfl
@[simp] theorem State.clearSticky_nlen : (s.clearSticky).nlen = s.nlen := rfl
@[simp] theorem State.clearSticky_slen : (s.clearSticky).slen = s.slen := rfl
@[simp] theorem State.clearSticky_olen : (s.clearSticky).olen = s.olen := rfl
@[simp] theorem State.clearSticky_busy : (s.clearSticky).busy = s.busy := rfl
@[simp] theorem State.clearSticky_lastErr : (s.clearSticky).lastErr = s.lastErr := rfl
@[simp] theorem State.clearSticky_stickyErr : (s.clearSticky).stickyErr = false := rfl
@[simp] theorem State.clearSticky_pend : (s.clearSticky).pend = s.pend := rfl
@[simp] theorem State.clearSticky_reads : (s.clearSticky).reads = s.reads := rfl
@[simp] theorem State.clearSticky_host : (s.clearSticky).host = s.host := rfl
@[simp] theorem State.clearSticky_turns : (s.clearSticky).turns = s.turns := rfl

@[simp] theorem State.withHost_ctx (es : List Event) : (s.withHost es).ctx = s.ctx := rfl
@[simp] theorem State.withHost_nlen (es : List Event) : (s.withHost es).nlen = s.nlen := rfl
@[simp] theorem State.withHost_slen (es : List Event) : (s.withHost es).slen = s.slen := rfl
@[simp] theorem State.withHost_olen (es : List Event) : (s.withHost es).olen = s.olen := rfl
@[simp] theorem State.withHost_busy (es : List Event) : (s.withHost es).busy = s.busy := rfl
@[simp] theorem State.withHost_lastErr (es : List Event) : (s.withHost es).lastErr = s.lastErr := rfl
@[simp] theorem State.withHost_stickyErr (es : List Event) : (s.withHost es).stickyErr = s.stickyErr := rfl
@[simp] theorem State.withHost_pend (es : List Event) : (s.withHost es).pend = s.pend := rfl
@[simp] theorem State.withHost_reads (es : List Event) : (s.withHost es).reads = s.reads := rfl
@[simp] theorem State.withHost_host (es : List Event) : (s.withHost es).host = es := rfl
@[simp] theorem State.withHost_turns (es : List Event) : (s.withHost es).turns = s.turns := rfl

@[simp] theorem State.takeTurn_ctx : (s.takeTurn).ctx = s.ctx := rfl
@[simp] theorem State.takeTurn_nlen : (s.takeTurn).nlen = s.nlen := rfl
@[simp] theorem State.takeTurn_slen : (s.takeTurn).slen = s.slen := rfl
@[simp] theorem State.takeTurn_olen : (s.takeTurn).olen = s.olen := rfl
@[simp] theorem State.takeTurn_busy : (s.takeTurn).busy = s.busy := rfl
@[simp] theorem State.takeTurn_lastErr : (s.takeTurn).lastErr = s.lastErr := rfl
@[simp] theorem State.takeTurn_stickyErr : (s.takeTurn).stickyErr = s.stickyErr := rfl
@[simp] theorem State.takeTurn_pend : (s.takeTurn).pend = s.pend := rfl
@[simp] theorem State.takeTurn_reads : (s.takeTurn).reads = s.reads := rfl
@[simp] theorem State.takeTurn_host : (s.takeTurn).host = s.host := rfl
@[simp] theorem State.takeTurn_turns : (s.takeTurn).turns = s.turns.tail := rfl

@[simp] theorem State.afterSuccess_ctx (c : Context) : (s.afterSuccess c).ctx = c := rfl
@[simp] theorem State.afterSuccess_nlen (c : Context) : (s.afterSuccess c).nlen = s.nlen := rfl
@[simp] theorem State.afterSuccess_slen (c : Context) : (s.afterSuccess c).slen = s.slen := rfl
@[simp] theorem State.afterSuccess_olen (c : Context) : (s.afterSuccess c).olen = s.olen := rfl
@[simp] theorem State.afterSuccess_busy (c : Context) : (s.afterSuccess c).busy = false := rfl
@[simp] theorem State.afterSuccess_lastErr (c : Context) : (s.afterSuccess c).lastErr = false := rfl
@[simp] theorem State.afterSuccess_stickyErr (c : Context) : (s.afterSuccess c).stickyErr = s.stickyErr := rfl
@[simp] theorem State.afterSuccess_pend (c : Context) : (s.afterSuccess c).pend = none := rfl
@[simp] theorem State.afterSuccess_reads (c : Context) : (s.afterSuccess c).reads = s.reads := rfl
@[simp] theorem State.afterSuccess_host (c : Context) : (s.afterSuccess c).host = s.host := rfl
@[simp] theorem State.afterSuccess_turns (c : Context) : (s.afterSuccess c).turns = s.turns := rfl

@[simp] theorem State.afterError_ctx (c : Context) : (s.afterError c).ctx = c := rfl
@[simp] theorem State.afterError_nlen (c : Context) : (s.afterError c).nlen = s.nlen := rfl
@[simp] theorem State.afterError_slen (c : Context) : (s.afterError c).slen = s.slen := rfl
@[simp] theorem State.afterError_olen (c : Context) : (s.afterError c).olen = s.olen := rfl
@[simp] theorem State.afterError_busy (c : Context) : (s.afterError c).busy = false := rfl
@[simp] theorem State.afterError_lastErr (c : Context) : (s.afterError c).lastErr = true := rfl
@[simp] theorem State.afterError_stickyErr (c : Context) : (s.afterError c).stickyErr = true := rfl
@[simp] theorem State.afterError_pend (c : Context) : (s.afterError c).pend = none := rfl
@[simp] theorem State.afterError_reads (c : Context) : (s.afterError c).reads = s.reads := rfl
@[simp] theorem State.afterError_host (c : Context) : (s.afterError c).host = s.host := rfl
@[simp] theorem State.afterError_turns (c : Context) : (s.afterError c).turns = s.turns := rfl

@[simp] theorem State.record_ctx (v : Verdict) : (s.record v).ctx = s.ctx := by cases v <;> rfl
@[simp] theorem State.record_nlen (v : Verdict) : (s.record v).nlen = s.nlen := by cases v <;> rfl
@[simp] theorem State.record_slen (v : Verdict) : (s.record v).slen = s.slen := by cases v <;> rfl
@[simp] theorem State.record_olen (v : Verdict) : (s.record v).olen = s.olen := by cases v <;> rfl
@[simp] theorem State.record_busy (v : Verdict) : (s.record v).busy = s.busy := by cases v <;> rfl
@[simp] theorem State.record_lastErr (v : Verdict) : (s.record v).lastErr = decide (v = .badInputData) := by cases v <;> rfl
@[simp] theorem State.record_stickyErr (v : Verdict) : (s.record v).stickyErr = (s.stickyErr || decide (v = .badInputData)) := by cases v <;> simp [State.record]
@[simp] theorem State.record_pend (v : Verdict) : (s.record v).pend = s.pend := by cases v <;> rfl
@[simp] theorem State.record_reads (v : Verdict) : (s.record v).reads = s.reads := by cases v <;> rfl
@[simp] theorem State.record_host (v : Verdict) : (s.record v).host = s.host := by cases v <;> rfl
@[simp] theorem State.record_turns (v : Verdict) : (s.record v).turns = s.turns := by cases v <;> rfl

/-- Two states with equal fields are equal. -/
theorem State.eq_of_fields {s t : State} (h : s.ctx = t.ctx ∧ s.nlen = t.nlen ∧ s.slen = t.slen ∧ s.olen = t.olen ∧
    s.busy = t.busy ∧ s.lastErr = t.lastErr ∧ s.stickyErr = t.stickyErr ∧ s.pend = t.pend ∧ s.reads = t.reads ∧
    s.host = t.host ∧ s.turns = t.turns) : s = t := by
  cases s; cases t; simp_all

end Sys2Proof.Machine
end

