-- ==== Sys2Proof/Laws/Sponge.lean ====
section
/-! SUPPORT. What the sponge's steps change and leave: they touch S and INDEX alone (spec/42_sponge.md R105, R106), and
keep INDEX inside the rate window. -/

namespace Sys2Proof.Machine

variable (b : Byte) (bs : List Byte) (c : Context)

@[simp] theorem permute_lanes : (permute c).lanes = keccakF c.lanes := rfl
@[simp] theorem permute_rate : (permute c).rate = c.rate := rfl
@[simp] theorem permute_dlen : (permute c).dlen = c.dlen := rfl
@[simp] theorem permute_suffix : (permute c).suffix = c.suffix := rfl
@[simp] theorem permute_fid : (permute c).fid = c.fid := rfl
@[simp] theorem permute_index : (permute c).index = c.index := rfl
@[simp] theorem permute_rem : (permute c).rem = c.rem := rfl
@[simp] theorem permute_lslen : (permute c).lslen = c.lslen := rfl
@[simp] theorem permute_phase : (permute c).phase = c.phase := rfl

/-- absorb_byte in one form for both of its branches. -/
theorem absorbByte_eq : absorbByte b c =
    if c.index + 1 = c.rate then
      { c with lanes := keccakF (c.lanes.xorByte c.index.toNat b), index := 0 }
    else { c with lanes := c.lanes.xorByte c.index.toNat b, index := c.index + 1 } := rfl

@[simp] theorem absorbByte_rate : (absorbByte b c).rate = c.rate := by rw [absorbByte_eq]; split <;> rfl
@[simp] theorem absorbByte_dlen : (absorbByte b c).dlen = c.dlen := by rw [absorbByte_eq]; split <;> rfl
@[simp] theorem absorbByte_suffix : (absorbByte b c).suffix = c.suffix := by rw [absorbByte_eq]; split <;> rfl
@[simp] theorem absorbByte_fid : (absorbByte b c).fid = c.fid := by rw [absorbByte_eq]; split <;> rfl
@[simp] theorem absorbByte_rem : (absorbByte b c).rem = c.rem := by rw [absorbByte_eq]; split <;> rfl
@[simp] theorem absorbByte_lslen : (absorbByte b c).lslen = c.lslen := by rw [absorbByte_eq]; split <;> rfl
@[simp] theorem absorbByte_phase : (absorbByte b c).phase = c.phase := by rw [absorbByte_eq]; split <;> rfl

/-- INDEX after absorb_byte depends on no byte. -/
@[simp] theorem absorbByte_index :
    (absorbByte b c).index = if c.index + 1 = c.rate then 0 else c.index + 1 := by
  rw [absorbByte_eq]; split <;> rfl

/-- INDEX stays inside the rate window (R105). -/
theorem absorbByte_index_lt (h : c.index < c.rate) : (absorbByte b c).index < (absorbByte b c).rate := by
  rw [absorbByte_index, absorbByte_rate]
  split <;> bv_omega

@[simp] theorem absorbBytes_nil : absorbBytes [] c = c := rfl
@[simp] theorem absorbBytes_cons : absorbBytes (b :: bs) c = absorbBytes bs (absorbByte b c) := rfl

/-- Absorbing a string in two parts is absorbing it whole. -/
theorem absorbBytes_append (as : List Byte) :
    absorbBytes (as ++ bs) c = absorbBytes bs (absorbBytes as c) := by
  simp [absorbBytes]

@[simp] theorem absorbBytes_rate : (absorbBytes bs c).rate = c.rate := by
  induction bs generalizing c with
  | nil => rfl
  | cons b bs ih => simp [ih]

@[simp] theorem absorbBytes_dlen : (absorbBytes bs c).dlen = c.dlen := by
  induction bs generalizing c with
  | nil => rfl
  | cons b bs ih => simp [ih]

@[simp] theorem absorbBytes_suffix : (absorbBytes bs c).suffix = c.suffix := by
  induction bs generalizing c with
  | nil => rfl
  | cons b bs ih => simp [ih]

@[simp] theorem absorbBytes_fid : (absorbBytes bs c).fid = c.fid := by
  induction bs generalizing c with
  | nil => rfl
  | cons b bs ih => simp [ih]

@[simp] theorem absorbBytes_rem : (absorbBytes bs c).rem = c.rem := by
  induction bs generalizing c with
  | nil => rfl
  | cons b bs ih => simp [ih]

@[simp] theorem absorbBytes_lslen : (absorbBytes bs c).lslen = c.lslen := by
  induction bs generalizing c with
  | nil => rfl
  | cons b bs ih => simp [ih]

@[simp] theorem absorbBytes_phase : (absorbBytes bs c).phase = c.phase := by
  induction bs generalizing c with
  | nil => rfl
  | cons b bs ih => simp [ih]

/-- INDEX stays inside the rate window over a string. -/
theorem absorbBytes_index_lt (h : c.index < c.rate) : (absorbBytes bs c).index < c.rate := by
  induction bs generalizing c with
  | nil => simpa using h
  | cons b bs ih => simpa using ih (absorbByte b c) (absorbByte_index_lt b c h)

@[simp] theorem padToBoundary_rate : (padToBoundary c).rate = c.rate := by unfold padToBoundary; split <;> rfl
@[simp] theorem padToBoundary_dlen : (padToBoundary c).dlen = c.dlen := by unfold padToBoundary; split <;> rfl
@[simp] theorem padToBoundary_suffix : (padToBoundary c).suffix = c.suffix := by unfold padToBoundary; split <;> rfl
@[simp] theorem padToBoundary_fid : (padToBoundary c).fid = c.fid := by unfold padToBoundary; split <;> rfl
@[simp] theorem padToBoundary_rem : (padToBoundary c).rem = c.rem := by unfold padToBoundary; split <;> rfl
@[simp] theorem padToBoundary_lslen : (padToBoundary c).lslen = c.lslen := by unfold padToBoundary; split <;> rfl
@[simp] theorem padToBoundary_phase : (padToBoundary c).phase = c.phase := by unfold padToBoundary; split <;> rfl

/-- After pad_to_boundary INDEX is 0 (R106). -/
@[simp] theorem padToBoundary_index : (padToBoundary c).index = 0 := by
  unfold padToBoundary
  split
  · rfl
  · simp_all

@[simp] theorem advanceFromN_rate : (advanceFromN c).rate = c.rate := by unfold advanceFromN; split <;> simp
@[simp] theorem advanceFromN_dlen : (advanceFromN c).dlen = c.dlen := by unfold advanceFromN; split <;> simp
@[simp] theorem advanceFromN_suffix : (advanceFromN c).suffix = c.suffix := by unfold advanceFromN; split <;> simp
@[simp] theorem advanceFromN_fid : (advanceFromN c).fid = c.fid := by unfold advanceFromN; split <;> simp
@[simp] theorem advanceFromN_lslen : (advanceFromN c).lslen = c.lslen := by unfold advanceFromN; split <;> simp
@[simp] theorem advanceFromS_rate : (advanceFromS c).rate = c.rate := by unfold advanceFromS; split <;> simp
@[simp] theorem advanceFromS_dlen : (advanceFromS c).dlen = c.dlen := by unfold advanceFromS; split <;> simp
@[simp] theorem advanceFromS_suffix : (advanceFromS c).suffix = c.suffix := by unfold advanceFromS; split <;> simp
@[simp] theorem advanceFromS_fid : (advanceFromS c).fid = c.fid := by unfold advanceFromS; split <;> simp

/-- Everything preamble_advance can do: nothing, or the step from N, or the step from S, or both (R135). -/
theorem preambleAdvance_cases :
    (preambleAdvance c = c ∧ ¬ (c.phase = .preN ∧ c.rem = 0) ∧ ¬ (c.phase = .preS ∧ c.rem = 0)) ∨
    (c.phase = .preN ∧ c.rem = 0 ∧ c.lslen ≠ 0 ∧
      preambleAdvance c =
        { absorbBytes (leftEncode (8 * c.lslen.toNat)) c with rem := c.lslen, phase := .preS }) ∨
    (c.phase = .preN ∧ c.rem = 0 ∧ c.lslen = 0 ∧
      preambleAdvance c =
        { padToBoundary (absorbBytes (leftEncode 0) c) with lslen := 0, phase := .absorbing }) ∨
    (c.phase = .preS ∧ c.rem = 0 ∧
      preambleAdvance c = { padToBoundary c with lslen := 0, phase := .absorbing }) := by
  unfold preambleAdvance advanceFromS advanceFromN
  by_cases hN : c.phase = .preN ∧ c.rem = 0
  · by_cases hl : c.lslen = 0
    · refine .inr (.inr (.inl ⟨hN.1, hN.2, hl, ?_⟩))
      simp only [hN, hl, padToBoundary, permute]
      simp
      split <;> simp_all
    · refine .inr (.inl ⟨hN.1, hN.2, hl, ?_⟩)
      simp [hN]
      exact hl
  · by_cases hS : c.phase = .preS ∧ c.rem = 0
    · refine .inr (.inr (.inr ⟨hS.1, hS.2, ?_⟩))
      simp [hS]
    · refine .inl ⟨?_, hN, hS⟩
      rw [if_neg hN, if_neg hS]

end Sys2Proof.Machine
end

