-- ==== Sys2Proof/Laws/Cshake.lean ====
section
/-! SUPPORT. The lengths left_encode can have (spec/43_cshake.md R125), INDEX over a string that stays inside a rate
block (42_sponge.md R105), and the bounds of the family table's rows (41_family_table.md R100). -/

namespace Sys2Proof.Machine

/-- Everything the byte count of left_encode says: it is at least its start and at most `fuel` more; the value fits it
if it fits the longest; and it is the start or no smaller count fits. -/
theorem byteCountFrom_spec (x : Nat) : ∀ fuel n : Nat,
    n ≤ byteCountFrom x fuel n ∧ byteCountFrom x fuel n ≤ n + fuel ∧
    (x < 2 ^ (8 * (n + fuel)) → x < 2 ^ (8 * byteCountFrom x fuel n)) ∧
    (byteCountFrom x fuel n = n ∨ 2 ^ (8 * (byteCountFrom x fuel n - 1)) ≤ x) := by
  intro fuel
  induction fuel with
  | zero => intro n; simp [byteCountFrom]
  | succ f ih =>
    intro n
    unfold byteCountFrom
    split
    · rename_i h
      exact ⟨by omega, by omega, fun _ => h, .inl rfl⟩
    · rename_i h
      obtain ⟨h1, h2, h3, h4⟩ := ih (n + 1)
      refine ⟨by omega, by omega, ?_, ?_⟩
      · intro hx
        apply h3
        rw [show n + 1 + f = n + (f + 1) by omega]
        exact hx
      · right
        rcases h4 with h4 | h4
        · rw [h4]; simpa using h
        · exact h4

/-- The length of a number in n bytes. -/
@[simp] theorem bigEndian_length (x n : Nat) : (bigEndian x n).length = n := by simp [bigEndian]

/-- left_encode of any number is 2 to 9 bytes long (R125). -/
theorem leftEncode_length (x : Nat) : 2 ≤ (leftEncode x).length ∧ (leftEncode x).length ≤ 9 := by
  obtain ⟨h1, h2, _, _⟩ := byteCountFrom_spec x 7 1
  unfold leftEncode byteCount
  simp only [List.length_cons, bigEndian_length]
  omega

/-- INDEX after a string that ends inside the rate block. -/
theorem absorbBytes_index_inside (bs : List Byte) (c : Context) (h : c.index.toNat + bs.length < c.rate.toNat) :
    (absorbBytes bs c).index.toNat = c.index.toNat + bs.length := by
  induction bs generalizing c with
  | nil => simp
  | cons b bs ih =>
    simp only [List.length_cons] at h
    have h1 : c.index + 1 ≠ c.rate := by bv_omega
    have e : (absorbByte b c).index = c.index + 1 := by rw [absorbByte_index, if_neg h1]
    have e' : (c.index + 1).toNat = c.index.toNat + 1 := by bv_omega
    rw [absorbBytes_cons, ih _ (by rw [e, e', absorbByte_rate]; omega), e, e']
    simp only [List.length_cons]
    omega

/-- Every row of the family table has a rate of 72 to 168 bytes. -/
theorem lookupFamily_rate (fid : BitVec 4) (row : FamilyRow) (h : lookupFamily fid = some row) :
    72 ≤ row.rate ∧ row.rate ≤ 168 := by
  have all : ∀ fid : BitVec 4, ∀ row ∈ lookupFamily fid, 72 ≤ row.rate ∧ row.rate ≤ 168 := by decide
  exact all fid row h

end Sys2Proof.Machine
end

