-- ==== Sys2Proof/Laws/Decode.lean ====
section
/-! SUPPORT. The decoder on the accesses it admits, and the fields of a command word (spec/30_encoding.md R66, R70). -/

namespace Sys2Proof

/-- An access code with bit 8 set is a write of its offset (R73). -/
theorem ofAccessCode_write (ac : BitVec 9) (v : Word) (h : ac.getLsbD 8 = true) :
    ofAccessCode ac v = .write .word (ac.extractLsb' 0 8).toNat v := by
  unfold ofAccessCode; simp only [h]; rfl

/-- An access code with bit 8 clear is a read of its offset (R73). -/
theorem ofAccessCode_read (ac : BitVec 9) (v : Word) (h : ac.getLsbD 8 = false) :
    ofAccessCode ac v = .read .word (ac.extractLsb' 0 8).toNat := by
  unfold ofAccessCode; simp only [h]; rfl

/-- Decoding a 32-bit read of an aligned offset. -/
theorem decode_read (off : Nat) (h : off % 4 = 0) :
    decode (.read .word off) = match decodeRead off with | some i => .ok i | none => .error .outside := by
  cases hd : decodeRead off <;> simp [decode, Access.width, Access.off, decodeAdmitted, h, hd]

/-- Decoding a 32-bit write of an aligned offset. -/
theorem decode_write (off : Nat) (v : Word) (h : off % 4 = 0) :
    decode (.write .word off v) = match decodeWrite off v with | some i => .ok i | none => .error .outside := by
  cases hd : decodeWrite off v <;> simp [decode, Access.width, Access.off, decodeAdmitted, h, hd]

/-- A write of CMD decodes as its command word does. -/
theorem decode_cmd (w : Word) : decode (ofAccessCode 0x100 w) = .ok (decodeCommand w) := rfl

/-- Decoding the write of an access code. -/
theorem decode_code_write (ac : BitVec 9) (v : Word) (i : Instr) (h : ac.getLsbD 8 = true)
    (h4 : (ac.extractLsb' 0 8).toNat % 4 = 0) (hi : decodeWrite (ac.extractLsb' 0 8).toNat v = some i) :
    decode (ofAccessCode ac v) = .ok i := by
  rw [ofAccessCode_write ac v h, decode_write _ _ h4, hi]

/-- Decoding the read of an access code. -/
theorem decode_code_read (ac : BitVec 9) (v : Word) (i : Instr) (h : ac.getLsbD 8 = false)
    (h4 : (ac.extractLsb' 0 8).toNat % 4 = 0) (hi : decodeRead (ac.extractLsb' 0 8).toNat = some i) :
    decode (ofAccessCode ac v) = .ok i := by
  rw [ofAccessCode_read ac v h, decode_read _ h4, hi]

/-- The decoder answers only on admitted accesses. -/
theorem decode_ok_admitted (a : Access) (i : Instr) (h : decode a = .ok i) :
    a.width = .word ∧ a.off % 4 = 0 ∧ decodeAdmitted a = some i := by
  unfold decode at h
  by_cases hw : a.width = .word
  · by_cases ha : a.off % 4 = 0
    · refine ⟨hw, ha, ?_⟩
      cases hd : decodeAdmitted a with
      | none => simp [hw, ha, hd] at h
      | some j => simpa [hw, ha, hd] using h
    · simp [hw, ha] at h
  · simp [hw] at h

/-- The fields of the command word built from OPC and FID. -/
theorem commandWord_fields (opc fid : BitVec 4) :
    rsv0Of (commandWord opc fid) = 0 ∧ rsv1Of (commandWord opc fid) = 0 ∧
    opcOf (commandWord opc fid) = opc ∧ fidOf (commandWord opc fid) = fid := by
  revert opc fid
  decide

/-- A word whose reserved fields are 0 is built from its OPC and FID. -/
theorem word_of_fields (w : Word) (h0 : rsv0Of w = 0) (h1 : rsv1Of w = 0) :
    w = commandWord (opcOf w) (fidOf w) := by
  unfold rsv0Of rsv1Of commandWord opcOf fidOf at *
  have a := fun k (_ : k < 4) => congrArg (fun v => v.getLsbD k) h0
  have b := fun k (_ : k < 20) => congrArg (fun v => v.getLsbD k) h1
  simp only [BitVec.getLsbD_extractLsb'] at a b
  apply BitVec.eq_of_getLsbD_eq
  intro i hi
  simp only [BitVec.getLsbD_or, BitVec.getLsbD_shiftLeft, BitVec.getLsbD_setWidth, BitVec.getLsbD_extractLsb']
  rcases Nat.lt_or_ge i 4 with h | h
  · simp [h, hi, show i < 8 by omega]
  rcases Nat.lt_or_ge i 8 with h' | h'
  · have := a (i - 4) (by omega)
    simp [show 4 + (i - 4) = i by omega, show i - 4 < 4 by omega] at this
    simp [this, h', show ¬ i < 4 by omega]
  rcases Nat.lt_or_ge i 12 with h'' | h''
  · simp [show ¬ i < 4 by omega, show ¬ i < 8 by omega, hi, show i - 8 < 4 by omega, show i - 8 < 32 by omega,
      show 8 + (i - 8) = i by omega]
  · have := b (i - 12) (by omega)
    simp [show 12 + (i - 12) = i by omega, show i - 12 < 20 by omega] at this
    simp [this, show ¬ i < 4 by omega, show ¬ i - 8 < 4 by omega]

end Sys2Proof
end

