-- ==== Sys2Proof/Laws/Ops.lean ====
section
/-! SUPPORT. What issue, completion and an access as a whole do to each part of the state (spec/44_control.md R141 to
R143): each lemma says it once, for every operation. -/

namespace Sys2Proof.Machine

variable (s : State) (op : Op)

/-! Issue. -/

@[simp] theorem issue_ctx : (issue op s).ctx = s.ctx := by cases op <;> rfl
@[simp] theorem issue_nlen : (issue op s).nlen = s.nlen := by cases op <;> rfl
@[simp] theorem issue_slen : (issue op s).slen = s.slen := by cases op <;> rfl
@[simp] theorem issue_olen : (issue op s).olen = s.olen := by cases op <;> rfl
@[simp] theorem issue_busy : (issue op s).busy = true := by cases op <;> rfl
@[simp] theorem issue_lastErr : (issue op s).lastErr = s.lastErr := by cases op <;> rfl
@[simp] theorem issue_stickyErr : (issue op s).stickyErr = s.stickyErr := by cases op <;> rfl
@[simp] theorem issue_pend : (issue op s).pend = some op := by cases op <;> rfl
@[simp] theorem issue_host : (issue op s).host = s.host := by cases op <;> rfl
@[simp] theorem issue_turns : (issue op s).turns = s.turns := by cases op <;> rfl

/-- Only a SQUEEZE returns data, and it does so at issue (R141). -/
@[simp] theorem issue_reads :
    (issue op s).reads = if op = .squeeze then s.reads ++ [doutWord s.ctx] else s.reads := by cases op <;> rfl

/-! Completion. -/

@[simp] theorem complete_nlen : (complete s).nlen = s.nlen := by
  unfold complete; split
  · rfl
  · rename_i o _; cases o <;> simp [clearStickyFor]
@[simp] theorem complete_slen : (complete s).slen = s.slen := by
  unfold complete; split
  · rfl
  · rename_i o _; cases o <;> simp [clearStickyFor]
@[simp] theorem complete_olen : (complete s).olen = s.olen := by
  unfold complete; split
  · rfl
  · rename_i o _; cases o <;> simp [clearStickyFor]
@[simp] theorem complete_busy : (complete s).busy = false := by
  unfold complete; split <;> rfl
@[simp] theorem complete_pend : (complete s).pend = none := by
  unfold complete; split <;> rfl
@[simp] theorem complete_reads : (complete s).reads = s.reads := by
  unfold complete; split
  · rfl
  · rename_i o _; cases o <;> simp [clearStickyFor]
@[simp] theorem complete_host : (complete s).host = s.host := by
  unfold complete; split
  · rfl
  · rename_i o _; cases o <;> simp [clearStickyFor]
@[simp] theorem complete_turns : (complete s).turns = s.turns := by
  unfold complete; split
  · rfl
  · rename_i o _; cases o <;> simp [clearStickyFor]

/-- Everything the completion of an issued operation does (R143, R161). -/
theorem complete_issue :
    complete (issue op s) =
      { s with
        ctx := (perform op s.ctx).ctx
        busy := false
        pend := none
        lastErr := decide ((perform op s.ctx).verdict = .badInputData)
        stickyErr := (decide (op ≠ .init) && s.stickyErr) || decide ((perform op s.ctx).verdict = .badInputData)
        reads := if op = .squeeze then s.reads ++ [doutWord s.ctx] else s.reads } := by
  unfold complete
  rw [issue_pend]
  cases op <;> apply State.eq_of_fields <;> simp [clearStickyFor]

/-! Held accesses. -/

/-- With BUSY = 0 nothing is held. -/
theorem settle_idle (h : s.busy = false) : settle s = s := by simp [settle, h]

/-- With BUSY = 1 a held access sees the completed state (R142). -/
theorem settle_busy (h : s.busy = true) : settle s = complete s := by simp [settle, h]

@[simp] theorem settle_nlen : (settle s).nlen = s.nlen := by unfold settle; split <;> simp
@[simp] theorem settle_slen : (settle s).slen = s.slen := by unfold settle; split <;> simp
@[simp] theorem settle_olen : (settle s).olen = s.olen := by unfold settle; split <;> simp
@[simp] theorem settle_reads : (settle s).reads = s.reads := by unfold settle; split <;> simp
@[simp] theorem settle_host : (settle s).host = s.host := by unfold settle; split <;> simp
@[simp] theorem settle_turns : (settle s).turns = s.turns := by unfold settle; split <;> simp

/-- After the wait BUSY is 0. -/
@[simp] theorem settle_busy_false : (settle s).busy = false := by
  cases h : s.busy with
  | true => simp [settle, h]
  | false => simp [settle, h]

/-- An operation as a whole, on a state where nothing is pending. -/
theorem operate_idle (latchOf : State → Op) (h : s.busy = false) :
    operate latchOf s = .next (complete (issue (latchOf s) s)) := by
  simp [operate, settle_idle s h]

/-- A plain read as a whole, on a state where nothing is pending. -/
theorem plainRead_idle (value : State → Word) (h : s.busy = false) :
    plainRead value s = .next (s.returnData (value s)) := by
  simp [plainRead, settle_idle s h]

/-- A plain write as a whole, on a state where nothing is pending. -/
theorem plainWrite_idle (update : State → State) (h : s.busy = false) :
    plainWrite update s = .next (update s) := by
  simp [plainWrite, settle_idle s h]

end Sys2Proof.Machine
end

