-- ==== Sys2Proof/Laws/Exec.lean ====
section
/-! SUPPORT. An operation as a whole on a state where nothing is pending, once for all operations: what it leaves when
it succeeds and when it raises BadInputData (spec/44_control.md R143, 60_exceptions.md R161, R162). -/

namespace Sys2Proof.Machine

variable (s : State) (op : Op) (c : Context)

/-- An instruction that issues an operation is that operation, issued and completed. -/
theorem exec_operation (i : Instr) (h : s.busy = false) (ho : operationOf i s = some op) :
    exec i s = .next (complete (issue op s)) := by
  cases i <;> simp [operationOf] at ho <;> subst ho <;> exact operate_idle s _ h

/-- An instruction that issues no operation leaves the context, LAST_ERR and STICKY_ERR of the state it is performed
in. -/
theorem exec_plain (i : Instr) (h : s.busy = false) (ho : operationOf i s = none) :
    ∃ t, exec i s = .next t ∧ t.ctx = s.ctx ∧ t.lastErr = s.lastErr ∧ t.stickyErr = s.stickyErr ∧ t.pend = s.pend ∧
      t.busy = false ∧ t.host = s.host ∧ t.turns = s.turns := by
  cases i <;> simp [operationOf] at ho <;>
    exact ⟨_, rfl, by simp [settle_idle s h], by simp [settle_idle s h], by simp [settle_idle s h],
      by simp [settle_idle s h], by simp [h], by simp, by simp⟩

/-- An operation but INIT and SQUEEZE that succeeds. -/
theorem complete_issue_success (hi : op ≠ .init) (hs : op ≠ .squeeze) (h : perform op s.ctx = succeed c) :
    complete (issue op s) = s.afterSuccess c := by
  rw [complete_issue, h]
  simp [succeed, State.afterSuccess, hi, hs]

/-- An operation but SQUEEZE that raises BadInputData. -/
theorem complete_issue_error (hs : op ≠ .squeeze) (h : perform op s.ctx = raiseBadInput c) :
    complete (issue op s) = s.afterError c := by
  rw [complete_issue, h]
  simp [raiseBadInput, State.afterError, hs]

end Sys2Proof.Machine
end

