-- ==== Sys2Proof/Laws/Lanes.lean ====
section
/-! SUPPORT. The lanes of a state built or changed by the operations of Machine/Lanes.lean and Permutation.lean. -/

namespace Sys2Proof.Machine

/-- A built state has the lanes it was built from (spec/10_state.md R21). -/
@[simp] theorem lane_build (f : Fin 5 → Fin 5 → Long) (x y : Fin 5) : (Lanes.build f).lane x y = f x y := by
  have hx : (x.val + 5 * y.val) % 5 = x.val := by omega
  have hy : (x.val + 5 * y.val) / 5 = y.val := by omega
  simp [Lanes.lane, Lanes.build, hx, hy]

/-- Two states with equal lanes A[x,y] are equal. -/
theorem lanes_ext {A B : Lanes} (h : ∀ x y, A.lane x y = B.lane x y) : A = B := by
  apply Vector.ext
  intro k hk
  have := h ⟨k % 5, by omega⟩ ⟨k / 5, by omega⟩
  have e : k % 5 + 5 * (k / 5) = k := by omega
  simpa [Lanes.lane, e] using this

/-- The lanes of the all-zero state. -/
@[simp] theorem lane_zero (x y : Fin 5) : Lanes.zero.lane x y = 0 := by
  simp [Lanes.lane, Lanes.zero]

/-- ι changes A[0,0] alone (spec/40_permutation.md R85). -/
theorem lane_iota (A : Lanes) (i : Nat) (x y : Fin 5) :
    (iota A i).lane x y = if x = 0 ∧ y = 0 then A.lane 0 0 ^^^ roundConstant i else A.lane x y := by
  have h0 : (x.val + 5 * y.val = 0) ↔ (x = 0 ∧ y = 0) := by omega
  unfold iota Lanes.lane
  rw [Vector.getElem_set]
  by_cases h : x = 0 ∧ y = 0
  · simp [h]
  · have : ¬ (0 = x.val + 5 * y.val) := fun e => h (h0.mp e.symm)
    simp [h, this]

/-- A write beyond the view changes nothing. -/
theorem setByte_beyond (A : Lanes) (j : Nat) (v : Byte) (h : 200 ≤ j) : A.setByte j v = A := by
  unfold Lanes.setByte
  rw [dif_neg (by omega)]

/-- A write of a byte leaves the other lanes. -/
theorem setByte_getElem_other (A : Lanes) (j : Nat) (v : Byte) (k : Nat) (hk : k < 25) (h : j / 8 ≠ k) :
    (A.setByte j v)[k] = A[k] := by
  unfold Lanes.setByte
  split
  · rw [Vector.getElem_set_ne _ _ h]
  · rfl

end Sys2Proof.Machine
end

