-- ==== Sys2Proof/Laws/PerInstr.lean ====
section
/-! SUPPORT. Facts about every instruction as syntax, one lemma per constructor. -/

namespace Sys2Proof.Laws.Encoding

/-- An access code whose low byte is an aligned offset of the window is an access the engine answers. -/
theorem admitted_of_code (ac : BitVec 9) (v : Word)
    (h : (ac.extractLsb' 0 8).toNat % 4 = 0 ∧ (ac.extractLsb' 0 8).toNat < 0x40) : (ofAccessCode ac v).admitted := by
  unfold ofAccessCode
  split
  · exact ⟨rfl, h.1, h.2⟩
  · exact ⟨rfl, h.1, h.2⟩

/-- The access an instruction is encoded as is one the engine answers: 32 bits wide, aligned, inside the window
(spec/20_memory.md R46, R48). -/
def Statement (i : Instr) : Prop := (encode i).admitted

theorem init : Statement (.init) := by unfold Statement encode; exact admitted_of_code _ _ (by decide)
theorem start (fid : BitVec 4) : Statement (.start fid) := by unfold Statement encode; exact admitted_of_code _ _ (by decide)
theorem startCshake (fid : BitVec 4) : Statement (.startCshake fid) := by unfold Statement encode; exact admitted_of_code _ _ (by decide)
theorem finish : Statement (.finish) := by unfold Statement encode; exact admitted_of_code _ _ (by decide)
theorem reservedCmd (w : Word) : Statement (.reservedCmd w) := by unfold Statement encode; exact admitted_of_code _ _ (by decide)
theorem absorb (v : Word) : Statement (.absorb v) := by unfold Statement encode; exact admitted_of_code _ _ (by decide)
theorem squeeze : Statement (.squeeze) := by unfold Statement encode; exact admitted_of_code _ _ (by decide)
theorem rdStatus : Statement (.rdStatus) := by unfold Statement encode; exact admitted_of_code _ _ (by decide)
theorem rdInfo : Statement (.rdInfo) := by unfold Statement encode; exact admitted_of_code _ _ (by decide)
theorem rdIndex : Statement (.rdIndex) := by unfold Statement encode; exact admitted_of_code _ _ (by decide)
theorem rdRemLo : Statement (.rdRemLo) := by unfold Statement encode; exact admitted_of_code _ _ (by decide)
theorem rdRemHi : Statement (.rdRemHi) := by unfold Statement encode; exact admitted_of_code _ _ (by decide)
theorem wrNlenLo (v : Word) : Statement (.wrNlenLo v) := by unfold Statement encode; exact admitted_of_code _ _ (by decide)
theorem rdNlenLo : Statement (.rdNlenLo) := by unfold Statement encode; exact admitted_of_code _ _ (by decide)
theorem wrNlenHi (v : Word) : Statement (.wrNlenHi v) := by unfold Statement encode; exact admitted_of_code _ _ (by decide)
theorem rdNlenHi : Statement (.rdNlenHi) := by unfold Statement encode; exact admitted_of_code _ _ (by decide)
theorem wrSlenLo (v : Word) : Statement (.wrSlenLo v) := by unfold Statement encode; exact admitted_of_code _ _ (by decide)
theorem rdSlenLo : Statement (.rdSlenLo) := by unfold Statement encode; exact admitted_of_code _ _ (by decide)
theorem wrSlenHi (v : Word) : Statement (.wrSlenHi v) := by unfold Statement encode; exact admitted_of_code _ _ (by decide)
theorem rdSlenHi : Statement (.rdSlenHi) := by unfold Statement encode; exact admitted_of_code _ _ (by decide)
theorem wrOlenLo (v : Word) : Statement (.wrOlenLo v) := by unfold Statement encode; exact admitted_of_code _ _ (by decide)
theorem rdOlenLo : Statement (.rdOlenLo) := by unfold Statement encode; exact admitted_of_code _ _ (by decide)
theorem wrOlenHi (v : Word) : Statement (.wrOlenHi v) := by unfold Statement encode; exact admitted_of_code _ _ (by decide)
theorem rdOlenHi : Statement (.rdOlenHi) := by unfold Statement encode; exact admitted_of_code _ _ (by decide)
theorem noEffectRdCmd : Statement (.noEffectRdCmd) := by unfold Statement encode; exact admitted_of_code _ _ (by decide)
theorem noEffectRdDin : Statement (.noEffectRdDin) := by unfold Statement encode; exact admitted_of_code _ _ (by decide)
theorem noEffectWrStatus (v : Word) : Statement (.noEffectWrStatus v) := by unfold Statement encode; exact admitted_of_code _ _ (by decide)
theorem noEffectWrDout (v : Word) : Statement (.noEffectWrDout v) := by unfold Statement encode; exact admitted_of_code _ _ (by decide)
theorem noEffectWrInfo (v : Word) : Statement (.noEffectWrInfo v) := by unfold Statement encode; exact admitted_of_code _ _ (by decide)
theorem noEffectWrIndex (v : Word) : Statement (.noEffectWrIndex v) := by unfold Statement encode; exact admitted_of_code _ _ (by decide)
theorem noEffectWrRemLo (v : Word) : Statement (.noEffectWrRemLo v) := by unfold Statement encode; exact admitted_of_code _ _ (by decide)
theorem noEffectWrRemHi (v : Word) : Statement (.noEffectWrRemHi v) := by unfold Statement encode; exact admitted_of_code _ _ (by decide)
theorem noEffectRd38 : Statement (.noEffectRd38) := by unfold Statement encode; exact admitted_of_code _ _ (by decide)
theorem noEffectRd3C : Statement (.noEffectRd3C) := by unfold Statement encode; exact admitted_of_code _ _ (by decide)
theorem noEffectWr38 (v : Word) : Statement (.noEffectWr38 v) := by unfold Statement encode; exact admitted_of_code _ _ (by decide)
theorem noEffectWr3C (v : Word) : Statement (.noEffectWr3C v) := by unfold Statement encode; exact admitted_of_code _ _ (by decide)

end Sys2Proof.Laws.Encoding
end

