-- ==== Sys2Proof/Laws/Step.lean ====
section
/-! SUPPORT. Everything one step of the machine can do (spec/44_control.md R140 to R143, 70_reset_and_hazards.md R175,
R176), and everything the host's move can do. -/

namespace Sys2Proof.Machine

/-- The engine's step always answers the completed state. -/
theorem engineStep_next (s : State) : engineStep s = .next (complete s.takeTurn) := rfl

/-- Everything a step can do: nothing (no event, nothing pending), the engine's completion, or the host's next event;
the host's event is performed at BUSY = 1 only in its turn and only if BUSY does not hold it. -/
theorem step_cases (s : State) :
    (s.host = [] ∧ s.busy = false ∧ step s = .next s) ∨
    (s.busy = true ∧ step s = .next (complete s.takeTurn)) ∨
    (∃ e rest, s.host = e :: rest ∧ s.busy = true ∧ hostFirst s = true ∧ neverHeld e = true ∧
      step s = hostStep e (s.takeTurn.withHost rest)) ∨
    (∃ e rest, s.host = e :: rest ∧ s.busy = false ∧ step s = hostStep e (s.withHost rest)) := by
  unfold step machineStep
  cases hh : s.host with
  | nil =>
    cases hb : s.busy with
    | false => exact .inl ⟨rfl, rfl, by simp⟩
    | true => exact .inr (.inl ⟨rfl, by simp [engineStep]⟩)
  | cons e rest =>
    cases hb : s.busy with
    | false => exact .inr (.inr (.inr ⟨e, rest, rfl, rfl, by simp⟩))
    | true =>
      by_cases h : (hostFirst s && neverHeld e) = true
      · have h' := h
        rw [Bool.and_eq_true] at h'
        exact .inr (.inr (.inl ⟨e, rest, rfl, rfl, h'.1, h'.2, by simp [h]⟩))
      · exact .inr (.inl ⟨rfl, by simp [h, engineStep]⟩)

/-- Everything the host's event can do: reset, a poll, a refused access, an access performed whole, or an operation
issued and left pending. -/
theorem hostStep_cases (e : Event) (s : State) :
    (e = .reset ∧ hostStep e s = .next (assertReset s)) ∨
    (e = .waitIdle ∧
      hostStep e s = exec .rdStatus (if s.busy then s.withHost (.waitIdle :: s.host) else s)) ∨
    (∃ a d, e = .access a ∧ decode a = .error d ∧ hostStep e s = .refused (refusalOf d)) ∨
    (∃ a i, e = .access a ∧ decode a = .ok i ∧ (hostStep e s = exec i s ∨ hostStep e s = exec i s.takeTurn)) ∨
    (∃ a i op, e = .access a ∧ decode a = .ok i ∧ s.busy = false ∧ operationOf i s = some op ∧ hostFirst s = true ∧
      hostStep e s = .next (issue op s.takeTurn)) := by
  cases e with
  | reset => exact .inl ⟨rfl, rfl⟩
  | waitIdle => exact .inr (.inl ⟨rfl, rfl⟩)
  | access a =>
    cases hd : decode a with
    | error d => exact .inr (.inr (.inl ⟨a, d, rfl, hd, by simp [hostStep, hd]⟩))
    | ok i =>
      cases hb : s.busy with
      | true => exact .inr (.inr (.inr (.inl ⟨a, i, rfl, hd, .inl (by simp [hostStep, hd, hb])⟩)))
      | false =>
        cases ho : operationOf i s with
        | none =>
          exact .inr (.inr (.inr (.inl ⟨a, i, rfl, hd, .inl (by simp [hostStep, hd, hb, hostPerforms, ho])⟩)))
        | some op =>
          cases hf : hostFirst s with
          | false =>
            exact .inr (.inr (.inr (.inl
              ⟨a, i, rfl, hd, .inr (by simp [hostStep, hd, hb, hostPerforms, ho, hf])⟩)))
          | true =>
            exact .inr (.inr (.inr (.inr
              ⟨a, i, op, rfl, hd, rfl, ho, rfl, by simp [hostStep, hd, hb, hostPerforms, ho, hf]⟩)))

end Sys2Proof.Machine
end

