-- ==== Sys2Proof/Laws/Timing.lean ====
section
/-! SUPPORT. The changes of S that absorb_byte and pad_to_boundary are written as: they make of S what the operation
makes of it, and depend on S in nothing (spec/40_permutation.md R91, R93). -/

namespace Sys2Proof.Machine

variable (A : Lanes) (b : Byte) (bs : List Byte) (c : Context)

@[simp] theorem runLaneSteps_nil : runLaneSteps [] A = A := rfl
@[simp] theorem runLaneSteps_cons (k : LaneStep) (ks : List LaneStep) :
    runLaneSteps (k :: ks) A = runLaneSteps ks (k.apply A) := rfl
@[simp] theorem runLaneSteps_append (ks ls : List LaneStep) :
    runLaneSteps (ks ++ ls) A = runLaneSteps ls (runLaneSteps ks A) := by simp [runLaneSteps]

@[simp] theorem apply_clear : LaneStep.clear.apply A = Lanes.zero := rfl
@[simp] theorem apply_xor (j : Nat) : (LaneStep.xor j b).apply A = A.xorByte j b := rfl
@[simp] theorem apply_permute : LaneStep.permute.apply A = keccakF A := rfl

/-- absorb_byte's changes of S are what it makes of S (42_sponge.md R105). -/
theorem absorbByte_lanes : (absorbByte b c).lanes = runLaneSteps (absorbByteSteps b c) c.lanes := by
  rw [absorbByte_eq, absorbByteSteps]
  split <;> simp

/-- A string's changes of S are what it makes of S. -/
theorem absorbBytes_lanes : (absorbBytes bs c).lanes = runLaneSteps (absorbBytesSteps bs c) c.lanes := by
  induction bs generalizing c with
  | nil => rfl
  | cons b bs ih => simp [absorbBytesSteps, ih, absorbByte_lanes]

/-- pad_to_boundary's changes of S are what it makes of S (42_sponge.md R106). -/
theorem padToBoundary_lanes : (padToBoundary c).lanes = runLaneSteps (padSteps c) c.lanes := by
  unfold padToBoundary padSteps
  split <;> simp

/-- absorb_byte's changes of S do not depend on S (40_permutation.md R93). -/
@[simp] theorem absorbByteSteps_withLanes : absorbByteSteps b { c with lanes := A } = absorbByteSteps b c := rfl

/-- absorb_byte leaves contexts that differ only in S differing only in S. -/
theorem absorbByte_withLanes :
    absorbByte b { c with lanes := A } =
      { absorbByte b c with lanes := runLaneSteps (absorbByteSteps b c) A } := by
  rw [absorbByte_eq, absorbByte_eq, absorbByteSteps]
  by_cases h : c.index + 1 = c.rate
  · rw [if_pos h, if_pos h, if_pos h]; rfl
  · rw [if_neg h, if_neg h, if_neg h]; rfl

/-- A string's changes of S do not depend on S. -/
@[simp] theorem absorbBytesSteps_withLanes : absorbBytesSteps bs { c with lanes := A } = absorbBytesSteps bs c := by
  induction bs generalizing A c with
  | nil => rfl
  | cons b bs ih => rw [absorbBytesSteps, absorbBytesSteps, absorbByte_withLanes, ih, absorbByteSteps_withLanes]

/-- A string leaves contexts that differ only in S differing only in S. -/
theorem absorbBytes_withLanes :
    absorbBytes bs { c with lanes := A } =
      { absorbBytes bs c with lanes := runLaneSteps (absorbBytesSteps bs c) A } := by
  induction bs generalizing A c with
  | nil => rfl
  | cons b bs ih =>
    rw [absorbBytes_cons, absorbBytes_cons, absorbByte_withLanes, ih, absorbBytesSteps, runLaneSteps_append]

end Sys2Proof.Machine
end

