-- ==== Sys2Proof/Tests/Slice0.lean ====
section
/-! SUPPORT. Tests of the model, each about one step or one function, with values from the spec's worked examples and
vectors (spec/95_test_vectors.md, cited as L1, L2), and one witness for the hypotheses of every statement. -/

namespace Sys2Proof.Tests

open Sys2Proof Sys2Proof.Machine

/-! Helpers. -/

/-- The state after an instruction. -/
def after (i : Instr) (s : State) : State :=
  match exec i s with
  | .next t => t
  | .fault _ => State.reset
  | .refused _ => State.reset

/-- The state after one step. -/
def stepped (s : State) : State :=
  match step s with
  | .next t => t
  | .fault _ => State.reset
  | .refused _ => State.reset

/-- The lanes with the given values, all others 0. -/
def lanesOf (vs : List (Fin 25 × Long)) : Lanes := vs.foldl (fun A p => A.set p.1 p.2) Lanes.zero

/-- A state with a context, nothing else set. -/
def withCtx (c : Context) : State := { State.reset with ctx := c }

/-- A session in ABSORBING with INDEX `i`. -/
def absorbing (fid : BitVec 4) (rate dlen : BitVec 8) (suffix : Byte) (i : BitVec 8) : Context :=
  { Context.zero with rate := rate, dlen := dlen, suffix := suffix, fid := fid, index := i, phase := .absorbing }

/-- A SHA3-256 session in ABSORBING. -/
def sha256At (i : BitVec 8) : State := withCtx (absorbing 2 136 32 0x06 i)

/-- A SHAKE128 session in ABSORBING. -/
def shake128At (i : BitVec 8) : State := withCtx (absorbing 5 168 0 0x1F i)

/-- A SHAKE128 session in SQUEEZING with INDEX `i` and REM `r`. -/
def squeezing (i : BitVec 8) (r : Long) : State :=
  withCtx { absorbing 5 168 0 0x1F i with rem := r, phase := .squeezing, lanes := lanesOf [(0, 0x7F), (20, 0xDF00000000000000)] }

/-- A SHAKE128 session that is over. -/
def finalized : State := withCtx { absorbing 5 168 0 0x1F 0 with phase := .finalized }

/-- A CSHAKE128 preamble waiting for a string. -/
def preamblePhase (p : Phase) (i : BitVec 8) (r l : Long) : State :=
  withCtx { absorbing 7 168 0 0x04 i with rem := r, lslen := l, phase := p }

/-- An operation pending, the host about to do `es`, the next turns `ts`. -/
def pending (op : Op) (es : List Event) (ts : List Turn) : State :=
  { sha256At 1 with pend := some op, busy := true, host := es, turns := ts }

/-- What the vectors list of a state. -/
structure View where
  phase : Phase
  index : BitVec 8
  rem : Long
  lslen : Long
  info : Word
  status : Word
deriving DecidableEq, Repr

/-- PHASE, INDEX, REM, LSLEN, INFO and STATUS of a state. -/
def view (s : State) : View :=
  ⟨s.ctx.phase, s.ctx.index, s.ctx.rem, s.ctx.lslen, infoWord s.ctx, statusWord s⟩

/-! Well-formedness: the one check, on words that fail it and words that meet it (spec/30_encoding.md R69). -/

theorem test_illformed_reserved_words :
    (Instr.reservedCmd 0x00000001).wellFormed = false ∧ (Instr.reservedCmd 0x00000F02).wellFormed = false ∧
    (Instr.reservedCmd 0x00000603).wellFormed = false ∧ (Instr.reservedCmd 0x00000004).wellFormed = false := by decide

theorem test_wellformed_reserved_words :
    (Instr.reservedCmd 0x00000000).wellFormed = true ∧ (Instr.reservedCmd 0x00000005).wellFormed = true ∧
    (Instr.reservedCmd 0x00000012).wellFormed = true ∧ (Instr.reservedCmd 0x10000002).wellFormed = true ∧
    (Instr.reservedCmd 0x00000101).wellFormed = true ∧ (Instr.reservedCmd 0x00000104).wellFormed = true := by decide

/-! Decoding: a word or an access written out from the encoding tables for every constructor (30_encoding.md R66, R67,
R77; the words of L2-44-1). -/

theorem test_decode_commands :
    decode (.write .word 0x00 0x00000001) = .ok .init ∧
    decode (.write .word 0x00 0x00000F02) = .ok (.start 15) ∧
    decode (.write .word 0x00 0x00000603) = .ok (.startCshake 6) ∧
    decode (.write .word 0x00 0x00000004) = .ok .finish ∧
    decode (.write .word 0x00 0x00000000) = .ok (.reservedCmd 0) ∧
    decode (.write .word 0x00 0x00000005) = .ok (.reservedCmd 5) ∧
    decode (.write .word 0x00 0x00000012) = .ok (.reservedCmd 0x12) ∧
    decode (.write .word 0x00 0x10000002) = .ok (.reservedCmd 0x10000002) ∧
    decode (.write .word 0x00 0x00000101) = .ok (.reservedCmd 0x101) ∧
    decode (.write .word 0x00 0x00000104) = .ok (.reservedCmd 0x104) := by decide

theorem test_decode_reads :
    decode (.read .word 0x00) = .ok .noEffectRdCmd ∧ decode (.read .word 0x04) = .ok .rdStatus ∧
    decode (.read .word 0x08) = .ok .noEffectRdDin ∧ decode (.read .word 0x0C) = .ok .squeeze ∧
    decode (.read .word 0x10) = .ok .rdNlenLo ∧ decode (.read .word 0x14) = .ok .rdNlenHi ∧
    decode (.read .word 0x18) = .ok .rdSlenLo ∧ decode (.read .word 0x1C) = .ok .rdSlenHi ∧
    decode (.read .word 0x20) = .ok .rdOlenLo ∧ decode (.read .word 0x24) = .ok .rdOlenHi ∧
    decode (.read .word 0x28) = .ok .rdInfo ∧ decode (.read .word 0x2C) = .ok .rdIndex ∧
    decode (.read .word 0x30) = .ok .rdRemLo ∧ decode (.read .word 0x34) = .ok .rdRemHi ∧
    decode (.read .word 0x38) = .ok .noEffectRd38 ∧ decode (.read .word 0x3C) = .ok .noEffectRd3C := by decide

theorem test_decode_writes :
    decode (.write .word 0x04 7) = .ok (.noEffectWrStatus 7) ∧ decode (.write .word 0x08 7) = .ok (.absorb 7) ∧
    decode (.write .word 0x0C 7) = .ok (.noEffectWrDout 7) ∧ decode (.write .word 0x10 7) = .ok (.wrNlenLo 7) ∧
    decode (.write .word 0x14 7) = .ok (.wrNlenHi 7) ∧ decode (.write .word 0x18 7) = .ok (.wrSlenLo 7) ∧
    decode (.write .word 0x1C 7) = .ok (.wrSlenHi 7) ∧ decode (.write .word 0x20 7) = .ok (.wrOlenLo 7) ∧
    decode (.write .word 0x24 7) = .ok (.wrOlenHi 7) ∧ decode (.write .word 0x28 7) = .ok (.noEffectWrInfo 7) ∧
    decode (.write .word 0x2C 7) = .ok (.noEffectWrIndex 7) ∧ decode (.write .word 0x30 7) = .ok (.noEffectWrRemLo 7) ∧
    decode (.write .word 0x34 7) = .ok (.noEffectWrRemHi 7) ∧ decode (.write .word 0x38 7) = .ok (.noEffectWr38 7) ∧
    decode (.write .word 0x3C 7) = .ok (.noEffectWr3C 7) := by decide

theorem test_decode_refuses :
    decode (.read .byte 0x04) = .error .width ∧ decode (.read .word 0x06) = .error .misaligned ∧
    decode (.write .word 0x40 0) = .error .outside ∧ decode (.write .half 0x3E 0) = .error .width := by decide

/-! The numbering of opcode_table.json (30_encoding.md R73, R77). -/

theorem test_table_words :
    decodeTableWord 32 0x00000001 = some .init ∧ decodeTableWord 32 0x00000002 = some (.start 0) ∧
    decodeTableWord 16 0x108 = some (.absorb 0) ∧ decodeTableWord 16 0x00C = some .squeeze ∧
    decodeTableWord 16 0x138 = some (.noEffectWr38 0) ∧ decodeTableWord 16 0x048 = none := by decide

/-- A fetched row is performed by the very next step. -/
theorem test_step_performs_fetched_row :
    (stepped (State.reset.withFetchWord 32 0x00000202)).ctx.rate = 136 ∧
    (stepped (State.reset.withFetchWord 16 0x004)).reads = [0] := by decide

/-! Stages and rounds of the permutation (L2-40). -/

/-- L2-40-1. -/
theorem test_theta : theta (lanesOf [(0, 1)]) =
    lanesOf [(0, 1), (1, 1), (6, 1), (11, 1), (16, 1), (21, 1), (4, 2), (9, 2), (14, 2), (19, 2), (24, 2)] := by
  decide +kernel

/-- L2-40-3. -/
theorem test_rho : rho (lanesOf [(3, 0x8000000000000001)]) = lanesOf [(3, 0x0000000018000000)] := by decide +kernel

/-- L2-40-4 and L2-40-5. -/
theorem test_pi : pi (lanesOf [(1, 1)]) = lanesOf [(10, 1)] ∧
    pi (lanesOf [(6, 0xFFFFFFFFFFFFFFFF)]) = lanesOf [(1, 0xFFFFFFFFFFFFFFFF)] := by decide +kernel

/-- L2-40-7. -/
theorem test_chi : chi (lanesOf [(1, 0xFFFFFFFFFFFFFFFF)]) =
    lanesOf [(1, 0xFFFFFFFFFFFFFFFF), (4, 0xFFFFFFFFFFFFFFFF)] := by decide +kernel

/-- L2-40-10. -/
theorem test_iota : iota Lanes.zero 23 = lanesOf [(0, 0x8000000080008008)] := by decide +kernel

/-- L2-40-12. -/
theorem test_two_rounds : keccakRound (keccakRound Lanes.zero 0) 1 =
    lanesOf [(0, 0x8083), (1, 0x0000100000000000), (2, 0x8000), (3, 1), (4, 0x0000100000008000),
      (6, 0x0000200000200000), (8, 0x0000200000000000), (9, 0x200000), (10, 2), (11, 0x200), (13, 0x202),
      (15, 0x10000400), (17, 0x400), (18, 0x10000000), (20, 0x0000010000000000), (22, 0x0000010000000004),
      (24, 4)] := by decide +kernel

/-- L1-1, SHA3-256 of the empty string, and with it KeccakF whole. -/
theorem test_sha3_256_empty :
    (List.range 32).foldl (fun n j => 256 * n + ((after .finish { sha256At 0 with olen := 32 }).ctx.lanes.byteAt j).toNat) 0 =
      0xa7ffc6f8bf1ed76651c14756a061d662f580ff4de43b49fa82d80a4b80f8434a := by
  decide +kernel

/-! Operations. -/

/-- L2-41-1, fid 2 and fid 8. -/
theorem test_start :
    view (after (.start 2) State.reset) = ⟨.absorbing, 0, 0, 0, 0x02062088, 0x02⟩ ∧
    view (after (.start 8) State.reset) = ⟨.absorbing, 0, 0, 0, 0x081F0088, 0x02⟩ := by decide

/-- L2-42-9: a failing START clears the session. -/
theorem test_start_unknown_family :
    view (after (.start 15) (sha256At 1)) = ⟨.initial, 0, 0, 0, 0, 0x30⟩ ∧
    view (after (.start 9) State.reset) = ⟨.initial, 0, 0, 0, 0, 0x30⟩ := by decide

/-- L2-43-3 and the last row of L2-43-7. -/
theorem test_startCshake :
    view (after (.startCshake 7) { State.reset with slen := 15 }) = ⟨.preS, 6, 15, 15, 0x070400A8, 0x06⟩ ∧
    view (after (.startCshake 7) { State.reset with nlen := 0x1FFFFFFFFFFFFFFF }) =
      ⟨.preN, 11, 0x1FFFFFFFFFFFFFFF, 0, 0x070400A8, 0x04⟩ := by decide

/-- L2-43-4 and L2-43-7. -/
theorem test_startCshake_shortcut_and_errors :
    view (after (.startCshake 7) State.reset) = ⟨.absorbing, 0, 0, 0, 0x071F00A8, 0x02⟩ ∧
    view (after (.startCshake 6) State.reset) = ⟨.initial, 0, 0, 0, 0, 0x30⟩ ∧
    view (after (.startCshake 8) { State.reset with nlen := 1, slen := 0x2000000000000000 }) =
      ⟨.initial, 0, 0, 0, 0, 0x30⟩ := by decide

/-- L2-44-2. -/
theorem test_init :
    view (after .init { squeezing 0 4 with stickyErr := true, nlen := 3 }) = ⟨.initial, 0, 0, 0, 0, 0⟩ ∧
    (after .init { squeezing 0 4 with nlen := 3 }).nlen = 3 := by decide

/-- L2-44-1. -/
theorem test_reservedCmd :
    view (after (.reservedCmd 0x12) (sha256At 1)) = ⟨.absorbing, 1, 0, 0, 0x02062088, 0x32⟩ := by decide

/-- L2-42-13 and L2-42-3: DIN ignores bits [31:8]; the last byte of a block permutes. -/
theorem test_absorb :
    (after (.absorb 0xFFFFFF61) (shake128At 0)).ctx.lanes = lanesOf [(0, 0x61)] ∧
    view (after (.absorb 0xA7) (shake128At 167)) = ⟨.absorbing, 0, 0, 0, 0x051F00A8, 0x02⟩ := by decide

/-- L2-43-3, the last two rows: the last byte of S pads the block and ends the preamble. -/
theorem test_absorb_string :
    view (after (.absorb 0x72) (preamblePhase .preS 19 2 15)) = ⟨.preS, 20, 1, 15, 0x070400A8, 0x06⟩ ∧
    view (after (.absorb 0x65) (preamblePhase .preS 20 1 15)) = ⟨.absorbing, 0, 0, 0, 0x070400A8, 0x02⟩ := by decide

/-- L2-42-2, L2-42-6, and L2-42-7, rows b, f and h. -/
theorem test_finish :
    view (after .finish { sha256At 135 with olen := 32 }) = ⟨.squeezing, 0, 32, 0, 0x02062088, 0x08⟩ ∧
    view (after .finish { withCtx (absorbing 4 72 64 0x06 1) with olen := 32 }) =
      ⟨.finalized, 1, 0, 0, 0x04064048, 0x3A⟩ ∧
    view (after .finish { State.reset with olen := 32 }) = ⟨.initial, 0, 0, 0, 0, 0x30⟩ ∧
    view (after .finish (squeezing 0 8)) = ⟨.finalized, 0, 0, 0, 0x051F00A8, 0x3A⟩ ∧
    view (after .finish (preamblePhase .preN 4 3 0)) = ⟨.finalized, 4, 0, 0, 0x070400A8, 0x3A⟩ := by decide

/-- L2-42-4: inside a window, at its end with more owed, and at the end of the output. -/
theorem test_squeeze :
    (view (after .squeeze (squeezing 0 200)), (after .squeeze (squeezing 0 200)).reads) =
      (⟨.squeezing, 1, 199, 0, 0x051F00A8, 0x08⟩, [0x7F]) ∧
    (view (after .squeeze (squeezing 167 33)), (after .squeeze (squeezing 167 33)).reads) =
      (⟨.squeezing, 0, 32, 0, 0x051F00A8, 0x08⟩, [0xDF]) ∧
    view (after .squeeze (squeezing 31 1)) = ⟨.finalized, 32, 0, 0, 0x051F00A8, 0x0A⟩ := by decide

/-- L2-42-7, row c: DOUT outside SQUEEZING returns 0. -/
theorem test_squeeze_error :
    (view (after .squeeze (sha256At 0)), (after .squeeze (sha256At 0)).reads) =
      (⟨.absorbing, 0, 0, 0, 0x02062088, 0x32⟩, [0]) := by decide

/-- L2-43-1. -/
theorem test_left_encode :
    leftEncode 0 = [0x01, 0x00] ∧ leftEncode 168 = [0x01, 0xA8] ∧ leftEncode 256 = [0x02, 0x01, 0x00] ∧
    leftEncode 1600 = [0x02, 0x06, 0x40] ∧
    leftEncode (2 ^ 64 - 8) = [0x08, 0xFF, 0xFF, 0xFF, 0xFF, 0xFF, 0xFF, 0xFF, 0xF8] := by decide

/-- The examples of 44_control.md R146 to R148. -/
theorem test_readback :
    (after .rdInfo (sha256At 0)).reads = [0x02062088] ∧ (after .rdIndex (sha256At 3)).reads = [3] ∧
    (after .rdRemLo (squeezing 0 32)).reads = [0x20] ∧ (after .rdRemHi (squeezing 0 0x700000020)).reads = [7] ∧
    (after .rdStatus { sha256At 0 with lastErr := true, stickyErr := true }).reads = [0x32] := by decide

/-- L2-44-4 and the examples of 44_control.md R149 to R151. -/
theorem test_lengths :
    (after (.wrNlenLo 0xF) { State.reset with nlen := 0x100000002 }).nlen = 0x10000000F ∧
    (after (.wrNlenHi 3) { State.reset with nlen := 0x100000002 }).nlen = 0x300000002 ∧
    (after (.wrSlenLo 0xF) { State.reset with slen := 0x100000002 }).slen = 0x10000000F ∧
    (after (.wrSlenHi 0x20000000) State.reset).slen = 0x2000000000000000 ∧
    (after (.wrOlenLo 0x40) { State.reset with olen := 0x100000002 }).olen = 0x100000040 ∧
    (after (.wrOlenHi 3) { State.reset with olen := 0x100000002 }).olen = 0x300000002 := by decide

/-- The reads of the halves. -/
theorem test_length_reads :
    (after .rdNlenLo { State.reset with nlen := 0x100000002 }).reads = [2] ∧
    (after .rdNlenHi { State.reset with nlen := 0x100000002 }).reads = [1] ∧
    (after .rdSlenLo { State.reset with slen := 0x300000004 }).reads = [4] ∧
    (after .rdSlenHi { State.reset with slen := 0x300000004 }).reads = [3] ∧
    (after .rdOlenLo { State.reset with olen := 0x500000006 }).reads = [6] ∧
    (after .rdOlenHi { State.reset with olen := 0x500000006 }).reads = [5] := by decide

/-- L2-44-3 and the example of 44_control.md R153. -/
theorem test_no_effect_reads :
    (after .noEffectRdCmd (squeezing 0 5)).reads = [0] ∧ (after .noEffectRdDin (squeezing 0 5)).reads = [0] ∧
    (after .noEffectRd38 (squeezing 0 5)).reads = [0] ∧ (after .noEffectRd3C (squeezing 0 5)).reads = [0] := by decide

/-- The writes with no effect, of all ones. -/
theorem test_no_effect_writes :
    let s := squeezing 0 5
    after (.noEffectWrStatus 0xFFFFFFFF) s = s ∧ after (.noEffectWrDout 0xFF) s = s ∧
    after (.noEffectWrInfo 0xFFFFFFFF) s = s ∧ after (.noEffectWrIndex 0x55) s = s ∧
    after (.noEffectWrRemLo 0xFFFFFFFF) s = s ∧ after (.noEffectWrRemHi 0xFFFFFFFF) s = s ∧
    after (.noEffectWr38 0xFFFFFFFF) s = s ∧ after (.noEffectWr3C 0xFFFFFFFF) s = s := by decide

/-! The two agents (44_control.md R140 to R143, 70_reset_and_hazards.md R176). -/

/-- With the host's turn, STATUS shows BUSY; without it, the completed operation. -/
theorem test_status_while_busy :
    (stepped (pending (.absorb 0) [.access (.read .word 4)] [.host])).reads = [0x03] ∧
    (stepped (stepped (pending (.absorb 0) [.access (.read .word 4)] []))).reads = [0x02] := by decide

/-- A held access waits for the completion, also in the host's turn. -/
theorem test_held_access :
    (stepped (pending (.absorb 0) [.access (.read .word 0x2C)] [.host])).ctx.index = 2 ∧
    (stepped (pending (.absorb 0) [.access (.read .word 0x2C)] [.host])).reads = [] := by decide

/-- L2-70-1, with an operation pending: reset aborts it. -/
theorem test_reset_aborts :
    stepped { pending (.absorb 0) [.reset] [.host] with nlen := 3 } = State.reset := by decide

/-- An access that is not admitted is refused (60_exceptions.md R174). -/
theorem test_refusals :
    (match step { State.reset with host := [.access (.read .half 0x04)] } with
      | .refused .subwordWidth => true | _ => false) = true ∧
    (match step { State.reset with host := [.access (.read .word 0x05)] } with
      | .refused .subwordOffset => true | _ => false) = true ∧
    (match step { State.reset with host := [.access (.read .word 0x40)] } with
      | .refused .outsideWindow => true | _ => false) = true := by decide

/-- The lines of 30_encoding.md R75 and a pseudo-instruction of R76. -/
theorem test_lines :
    (Line.start (.name .sha3_256)).access = .write .word 0x00 0x00000202 ∧
    (Line.startCshake (.number 7)).access = .write .word 0x00 0x00000703 ∧
    Line.access (.din 0x61) = .write .word 0x08 0x61 ∧ Line.access .dout = .read .word 0x0C ∧
    (Pseudo.setlen .slen 15).events = [.access (.write .word 0x18 15), .access (.write .word 0x1C 0)] := by decide

/-- L2-70-3: the counts of KeccakF. -/
theorem test_counts :
    keccakRuns (.finish 32) (sha256At 135).ctx = 1 ∧ keccakRuns (.absorb 0xA7) (shake128At 167).ctx = 1 ∧
    keccakRuns (.absorb 0x65) (preamblePhase .preS 20 1 15).ctx = 1 ∧
    keccakRuns (.startCshake 7 0x1FFFFFFFFFFFFFFF 0) Context.zero = 0 ∧
    keccakRuns .squeeze (squeezing 167 33).ctx = 1 ∧ keccakRuns .squeeze (squeezing 31 1).ctx = 0 := by decide

/-! Witnesses: states and operands that meet the hypotheses of each statement, each clause at a boundary. -/

/-- A DIN write in a SHA3-256 session, about to be performed. -/
def din : State := { sha256At 135 with host := [.access (.write .word 0x08 0xFFFFFF61)] }

theorem witness_EveryStepKeepsTheInvariant : din.Inv ∧ ∃ t, step din = .next t := ⟨by decide, _, rfl⟩

theorem witness_AssertedResetRestoresTheResetState :
    ({ sha256At 1 with host := [.reset] } : State).busy = false ∧
    (pending (.finish 32) [.reset] [.host]).host = [.reset] ∧
    (pending (.finish 32) [.reset] [.host]).turns.head? = some .host := by decide

theorem witness_DecodingAnEncodedInstructionGivesItBack :
    (Instr.reservedCmd 0xFFFFFFFF).wellFormed = true ∧ (Instr.reservedCmd 0).wellFormed = true ∧
    (Instr.start 15).wellFormed = true ∧ (Instr.noEffectWr3C 0xFFFFFFFF).wellFormed = true := by decide

theorem witness_EveryDecodedAccessEncodesBack :
    decode (.write .word 0x3C 0xFFFFFFFF) = .ok (.noEffectWr3C 0xFFFFFFFF) ∧
    decode (.write .word 0x00 0x00000F03) = .ok (.startCshake 15) := by decide

theorem witness_DecodeAnswersExactlyTheAdmittedAccesses :
    (Access.read .word 0x3C).admitted ∧ (Access.read .byte 0x3C).width ≠ .word ∧
    (Access.read .word 0x3F).off % 4 ≠ 0 ∧ (Access.write .word 0x40 0).off % 4 = 0 ∧
    0x40 ≤ (Access.write .word 0x40 0).off := by decide

theorem witness_ReservedCommandWordsAreThoseOfR69 :
    decodeCommand 0x00000005 = .reservedCmd 0x00000005 ∧ decodeCommand 0x0000000F = .reservedCmd 0x0000000F ∧
    decodeCommand 0x00000F04 = .reservedCmd 0x00000F04 ∧ decodeCommand 0x00001002 = .reservedCmd 0x00001002 ∧
    decodeCommand 0x00000F02 = .start 15 := by decide

theorem witness_OpcodeMapSelectsEveryOperation :
    (0x00000001 : Word) &&& 0xFFFFFFFF = 0x00000001 ∧ (0x00000F02 : Word) &&& 0xFFFFF0FF = 0x00000002 ∧
    (0x00000003 : Word) &&& 0xFFFFF0FF = 0x00000003 ∧ (0x00000004 : Word) &&& 0xFFFFFFFF = 0x00000004 ∧
    (0x00001003 : Word) &&& 0xFFFFF0FF ≠ 0x00000003 := by decide

theorem witness_StepPerformsTheDecodedAccess :
    let plain := { sha256At 1 with host := [.access (.read .word 0x2C)], turns := [.host] }
    plain.busy = false ∧ decode (.read .word 0x2C) = .ok .rdIndex ∧ operationOf .rdIndex plain = none ∧
    din.busy = false ∧ decode (.write .word 0x08 0xFFFFFF61) = .ok (.absorb 0xFFFFFF61) ∧
    operationOf (.absorb 0xFFFFFF61) din ≠ none ∧ din.turns.head? ≠ some .host ∧
    ({ din with turns := [.engine] } : State).turns.head? ≠ some .host := by decide

theorem witness_IssueThenCompletionEqualsTheWholeAccess :
    let s := { squeezing 167 33 with host := [.access (.read .word 0x0C)], turns := [.host, .engine] }
    s.busy = false ∧ decode (.read .word 0x0C) = .ok .squeeze ∧ operationOf .squeeze s = some .squeeze := by decide

theorem witness_EngineCompletesUnlessAnUnheldAccessMovesFirst :
    (pending (.absorb 0) [] [.host]).busy = true ∧ (pending (.absorb 0) [] [.host]).host = [] ∧
    (pending (.absorb 0) [.reset] [.engine]).turns.head? ≠ some .host ∧
    (pending (.absorb 0) [.access (.read .word 0x28)] [.host]).host = [.access (.read .word 0x28)] ∧
    Event.access (.read .word 0x28) ≠ .access (.read .word 0x04) := by decide

theorem witness_StatusReadIsNotHeldByBusy :
    let s := pending .init [.access (.read .word 0x04)] [.host]
    s.busy = true ∧ s.host = [.access (.read .word 0x04)] ∧ s.turns = [.host] := by decide

theorem witness_WaitIdlePollsUntilBusyIsZero :
    ({ sha256At 1 with host := [.waitIdle] } : State).busy = false ∧
    (pending .init [.waitIdle] [.host]).busy = true ∧ (pending .init [.waitIdle] [.host]).host = [.waitIdle] ∧
    (pending .init [.waitIdle] [.host]).turns = [.host] := by decide

theorem witness_OnlyInadmissibleAccessesStopTheMachine :
    State.reset.busy = false ∧ (Access.write .half 0x00 0).width ≠ .word ∧
    (Access.write .word 0x41 0).off % 4 ≠ 0 ∧ (Access.read .word 0x40).off % 4 = 0 ∧
    0x40 ≤ (Access.read .word 0x40).off := by decide

theorem witness_EveryInstructionCompletesInEveryState :
    Instr.rdInfo ≠ .rdStatus ∧ encode .rdInfo = .read .word 0x28 ∧ encode (.absorb 7) = .write .word 0x08 7 := by
  decide

theorem witness_HeldAccessIsPerformedOnTheCompletedState :
    (pending (.absorb 0) [] []).busy = true ∧ Instr.squeeze ≠ .rdStatus := by decide

theorem witness_CompletionRecordsTheOutcome :
    (pending .init [] []).pend = some .init ∧ (pending .reserved [] []).pend = some .reserved := by decide

theorem witness_BusyEndsAfterFinitelyManySteps :
    (pending (.absorb 0) [.waitIdle] [.host, .host]).busy = true := by decide

theorem witness_EverySchedulePerformsTheAccessesInOrder :
    let as := [Access.write .word 0x08 0x61, Access.read .word 0x2C, Access.write .word 0x3C 0]
    (∀ a ∈ as, a.admitted ∧ a ≠ .read .word 0x04) ∧
    ({ sha256At 0 with host := as.map .access, turns := [.host] } : State).busy = false := by decide

theorem witness_InitClearsTheContext : (preamblePhase .preS 6 15 15).busy = false := by decide

theorem witness_ReservedWordWritesOnlyTheStatus : (squeezing 0 5).busy = false := by decide

theorem witness_InfoReadReturnsTheParameters : (preamblePhase .preN 5 3 0).busy = false := by decide

theorem witness_IndexAndRemReadsReturnTheCounters : (squeezing 167 0xFFFFFFFFFFFFFFFF).busy = false := by decide

theorem witness_LengthAccessesReadAndWriteHalves :
    ({ State.reset with nlen := 0xFFFFFFFFFFFFFFFF, slen := 1, olen := 0x100000000 } : State).busy = false := by decide

theorem witness_TwoHalfWritesAssembleTheLength :
    ({ State.reset with nlen := 0xFFFFFFFFFFFFFFFF } : State).busy = false := by decide

theorem witness_NoEffectAccessesChangeNothing : finalized.busy = false := by decide

theorem witness_OnlyTheNamedInstructionsWriteEachRegister :
    let s := { sha256At 135 with stickyErr := true }
    (∃ t, exec .finish s = .next t) ∧ (∃ t, exec .rdOlenHi s = .next t) ∧ s.busy = false ∧ s.stickyErr = true ∧
    (∀ fid, Instr.finish ≠ .start fid) ∧ (∀ fid, Instr.finish ≠ .startCshake fid) ∧ Instr.finish ≠ .init ∧
    (∀ v, Instr.finish ≠ .wrOlenLo v) ∧ (∀ v, Instr.finish ≠ .wrOlenHi v) ∧
    operationOf .rdOlenHi s = none :=
  ⟨⟨_, rfl⟩, ⟨_, rfl⟩, rfl, rfl, nofun, nofun, nofun, nofun, nofun, rfl⟩

theorem witness_StartBeginsASessionOrClears :
    (squeezing 0 5).busy = false ∧ (1, 144, 28, 0x06) ∈ familyRows ∧ (8, 136, 0, 0x1F) ∈ familyRows ∧
    9 ≤ (9 : BitVec 4).toNat ∧ 9 ≤ (15 : BitVec 4).toNat ∧
    lookupFamily 0 = none ∧ lookupFamily 9 = none ∧ lookupFamily 8 ≠ none := by decide

theorem witness_CshakeWithoutStringsIsShake :
    ((6 : BitVec 4), (8 : BitVec 4)) ∈ [((5 : BitVec 4), (7 : BitVec 4)), (6, 8)] ∧ (sha256At 1).busy = false ∧
    (sha256At 1).nlen = 0 ∧ (sha256At 1).slen = 0 := by decide

theorem witness_AbsorbTakesOneByte :
    (sha256At 134).busy = false ∧ (sha256At 134).ctx.phase = .absorbing ∧
    (sha256At 134).ctx.index + 1 ≠ (sha256At 134).ctx.rate ∧ (sha256At 135).ctx.phase = .absorbing ∧
    (sha256At 135).ctx.index + 1 = (sha256At 135).ctx.rate ∧ (preamblePhase .preN 5 1 0).ctx.phase = .preN ∧
    (preamblePhase .preS 5 1 1).ctx.phase = .preS ∧ State.reset.ctx.phase = .initial ∧
    (squeezing 0 1).ctx.phase = .squeezing ∧ finalized.ctx.phase = .finalized := by decide

theorem witness_FinishPadsOrFails :
    State.reset.busy = false ∧ State.reset.ctx.phase = .initial ∧ finalized.ctx.phase ≠ .initial ∧
    finalized.ctx.phase ≠ .absorbing ∧ (sha256At 135).ctx.phase = .absorbing ∧ (sha256At 135).ctx.dlen ≠ 0 ∧
    (sha256At 135).olen ≠ (sha256At 135).ctx.dlen.setWidth 64 ∧ (shake128At 0).ctx.dlen = 0 ∧
    ({ sha256At 135 with olen := 32 } : State).olen = (sha256At 135).ctx.dlen.setWidth 64 := by decide

theorem witness_FinishSucceedsExactlyForLegalLengths :
    (sha256At 135).busy = false ∧ (sha256At 135).ctx.Inv ∧ (sha256At 135).ctx.phase = .absorbing ∧
    (shake128At 167).ctx.Inv := by
  refine ⟨?_, ?_, ?_, ?_⟩ <;> decide

theorem witness_SqueezeReturnsTheNextByte :
    finalized.busy = false ∧ finalized.ctx.phase ≠ .squeezing ∧ (squeezing 166 1).ctx.phase = .squeezing ∧
    (squeezing 166 1).ctx.index + 1 ≠ (squeezing 166 1).ctx.rate ∧
    (squeezing 167 2).ctx.index + 1 = (squeezing 167 2).ctx.rate ∧ (squeezing 167 2).ctx.rem - 1 ≠ 0 ∧
    (squeezing 167 1).ctx.rem - 1 = 0 := by decide

theorem witness_PaddingBytesMeetInTheLastByte :
    (shake128At 167).busy = false ∧ (shake128At 167).ctx.Inv ∧ (shake128At 167).ctx.phase = .absorbing ∧
    (shake128At 167).ctx.dlen = 0 ∧ (shake128At 167).ctx.index.toNat = (shake128At 167).ctx.rate.toNat - 1 ∧
    (shake128At 166).ctx.Inv ∧ (shake128At 166).ctx.index.toNat ≠ (shake128At 166).ctx.rate.toNat - 1 := by
  refine ⟨?_, ?_, ?_, ?_, ?_, ?_, ?_⟩ <;> decide

theorem witness_AbsorbChangesOneByteOfTheWindow :
    (shake128At 166).busy = false ∧ (shake128At 166).ctx.Inv ∧ (shake128At 166).ctx.phase = .absorbing ∧
    (shake128At 166).ctx.index + 1 ≠ (shake128At 166).ctx.rate := by decide

theorem witness_ByteViewIsLittleEndianAndWritesOneByte :
    (7 : Nat) < 8 ∧ (199 : Nat) < 200 ∧ ∀ j < 200, Lanes.zero.byteAt j = Lanes.zero.byteAt j := by
  refine ⟨by decide, by decide, fun _ _ => rfl⟩

theorem witness_PadToBoundaryAbsorbsZeroBytes :
    (shake128At 167).ctx.index.toNat < (shake128At 167).ctx.rate.toNat ∧ (shake128At 167).ctx.index ≠ 0 ∧
    (shake128At 0).ctx.index.toNat < (shake128At 0).ctx.rate.toNat ∧ (shake128At 0).ctx.index = 0 := by decide

theorem witness_AbsorbingIsTheSameHoweverTheMessageIsCut :
    (sha256At 135).busy = false ∧ (sha256At 135).ctx.phase = .absorbing ∧
    [(0x61 : Word)] ++ [0x62] = [0x61, 0x62] := by decide

theorem witness_HashRunReturnsTheSpongeOutput :
    let s := { squeezing 0 5 with host := (Pseudo.hash (.name .sha3_224) [0x61] 28).events, turns := [.host] }
    ((FamilyArg.name .sha3_224).fid, (144 : BitVec 8), (28 : BitVec 8), (0x06 : Byte)) ∈ familyRows ∧
    (28 : Long) = (28 : BitVec 8).setWidth 64 ∧ s.busy = false ∧
    ((FamilyArg.number 8).fid, (136 : BitVec 8), (0 : BitVec 8), (0x1F : Byte)) ∈ familyRows := by decide

theorem witness_ShorterXofOutputIsAPrefix :
    isXof 5 = true ∧ isXof 8 = true ∧ (0 : Long).toNat < (169 : Long).toNat ∧ (sha256At 1).busy = false ∧
    isCshake 7 = true ∧ isCshake 8 = true ∧ ({ State.reset with slen := 2 } : State).busy = false ∧
    ({ State.reset with slen := 2 } : State).nlen = BitVec.ofNat 64 ([] : List Byte).length ∧
    ({ State.reset with slen := 2 } : State).slen = BitVec.ofNat 64 ([0x61, 0x62] : List Byte).length ∧
    (shake128At 167).busy = false ∧ (shake128At 167).ctx.Inv ∧ (shake128At 167).ctx.phase = .absorbing ∧
    isXof (shake128At 167).ctx.fid = true := by
  refine ⟨?_, ?_, ?_, ?_, ?_, ?_, ?_, ?_, ?_, ?_, ?_, ?_, ?_⟩ <;> decide

theorem witness_OutputIsTheWindowsOfIteratedKeccakF :
    (squeezing 0 169).busy = false ∧ (squeezing 0 169).ctx.Inv ∧ (squeezing 0 169).ctx.phase = .squeezing ∧
    (squeezing 0 169).ctx.index = 0 ∧ 169 ≤ (squeezing 0 169).ctx.rem.toNat := by decide

theorem witness_EmptyOutputEndsTheSession :
    (shake128At 3).busy = false ∧ (shake128At 3).ctx.Inv ∧ (shake128At 3).ctx.phase = .absorbing ∧
    (shake128At 3).olen = 0 ∧ isXof (shake128At 3).ctx.fid = true ∧ (sha256At 3).ctx.Inv ∧
    (sha256At 3).ctx.phase = .absorbing ∧ (sha256At 3).olen = 0 ∧ isSha3 (sha256At 3).ctx.fid = true := by
  refine ⟨?_, ?_, ?_, ?_, ?_, ?_, ?_, ?_, ?_⟩ <;> decide

theorem witness_LeftEncodeIsMinimalBigEndian :
    2 ^ 64 - 1 < 2 ^ 64 ∧ leftEncode 255 = [0x01, 0xFF] ∧ leftEncode 256 = [0x02, 0x01, 0x00] := by decide

theorem witness_PreambleIsWholeBlocksOfTheRate :
    (preamble [0x41, 0x42, 0x43] [] 168).take 9 = [0x01, 0xA8, 0x01, 0x18, 0x41, 0x42, 0x43, 0x01, 0x00] := by decide

theorem witness_StartCshakeBeginsThePreambleOrClears :
    State.reset.busy = false ∧ (6 : BitVec 4) ≠ 7 ∧ (6 : BitVec 4) ≠ 8 ∧
    2 ^ 61 ≤ (0x2000000000000000 : Long).toNat ∧ (7, 168) ∈ cshakeRows ∧ State.reset.nlen = 0 ∧ State.reset.slen = 0 ∧
    (8, 136) ∈ cshakeRows ∧ (0x1FFFFFFFFFFFFFFF : Long).toNat < 2 ^ 61 ∧
    ¬ ((0x1FFFFFFFFFFFFFFF : Long) = 0 ∧ (0 : Long) = 0) := by decide

theorem witness_StartCshakeWaitsForTheStrings :
    let s := { State.reset with nlen := 0, slen := 0x1FFFFFFFFFFFFFFF }
    (7, 168) ∈ cshakeRows ∧ s.busy = false ∧ s.nlen.toNat < 2 ^ 61 ∧ s.slen.toNat < 2 ^ 61 ∧
    ¬ (s.nlen = 0 ∧ s.slen = 0) ∧ s.nlen = 0 ∧ ({ s with nlen := 1 } : State).nlen ≠ 0 := by decide

theorem witness_StringBytesMoveThePreambleOn :
    (preamblePhase .preN 167 2 1).busy = false ∧ (preamblePhase .preN 167 2 1).ctx.phase = .preN ∧
    (preamblePhase .preN 167 2 1).ctx.rem - 1 ≠ 0 ∧ (preamblePhase .preN 167 1 1).ctx.rem - 1 = 0 ∧
    (preamblePhase .preN 167 1 1).ctx.lslen ≠ 0 ∧ (preamblePhase .preN 167 1 0).ctx.lslen = 0 ∧
    (preamblePhase .preS 167 1 1).ctx.phase = .preS ∧ (preamblePhase .preS 167 1 1).ctx.rem - 1 = 0 := by decide

theorem witness_PreambleRunAbsorbsTheFramedStrings :
    let s := { sha256At 1 with nlen := 0, slen := 1 }
    (8, 136) ∈ cshakeRows ∧ s.busy = false ∧ ([] : List Byte).length < 2 ^ 61 ∧ [(0x41 : Byte)].length < 2 ^ 61 ∧
    ¬ (([] : List Byte) = [] ∧ [(0x41 : Byte)] = []) ∧ s.nlen = BitVec.ofNat 64 ([] : List Byte).length ∧
    s.slen = BitVec.ofNat 64 [(0x41 : Byte)].length := by decide

theorem witness_CshakeRunReturnsTheSpongeOutput :
    let s := { sha256At 1 with host := (Pseudo.chash (.number 7) [] [0x41] [0x42] 1).events }
    ((FamilyArg.number 7).fid, (168 : BitVec 8)) ∈ cshakeRows ∧ [(0x41 : Byte)].length < 2 ^ 61 ∧ s.busy = false := by
  decide

theorem witness_StagesComputeTheirLanes :
    (63 : Nat) < 64 ∧ ∀ u, columnParity Lanes.zero u = 0 := by decide

theorem witness_KeccakFIsTheTwentyFourRounds :
    let f := fun n => (List.range n).foldl keccakRound Lanes.zero
    f 0 = Lanes.zero ∧ ∀ i < 24, f (i + 1) = iota (chi (pi (rho (theta (f i))))) i := by
  refine ⟨rfl, fun i _ => ?_⟩
  simp [List.range_succ, keccakRound]

theorem witness_SecretsSteerNothingButTheOutputBytes :
    (∃ t, exec .finish (shake128At 3) = .next t) ∧ (∃ t, exec .squeeze (squeezing 0 5) = .next t) ∧
    (∃ t, exec (.absorb 7) (shake128At 3) = .next t) ∧ Instr.finish ≠ .squeeze :=
  ⟨⟨_, rfl⟩, ⟨_, rfl⟩, ⟨_, rfl⟩, nofun⟩

theorem witness_PermutationCountsAreThoseOfR185 :
    (sha256At 135).ctx.Inv ∧ (sha256At 135).ctx.phase = .absorbing ∧ (preamblePhase .preN 167 1 0).ctx.Inv ∧
    (preamblePhase .preN 167 1 0).ctx.phase = .preN ∧ (squeezing 167 33).ctx.Inv ∧ finalized.ctx.Inv ∧
    finalized.ctx.phase = .finalized := by
  refine ⟨?_, ?_, ?_, ?_, ?_, ?_, ?_⟩ <;> decide

theorem witness_BusByteOrderAndWindowBaseDoNotMatter :
    (0x3F : Nat) < 0x40 ∧ windowOffset 0x1000 0x103F = some 0x3F ∧ windowOffset 0x1000 0x1040 = none := by decide

end Sys2Proof.Tests
end

section
/-! PROOF. The byte lanes and the window base do not reach the engine (spec/20_memory.md R45, R52): putting a register
on the lanes is undone by taking it off, and adding the base is undone by `windowOffset`. -/

namespace Sys2Proof.Machine

/-- Byte k, moved back to its place in the register, holds the register's bits of that byte and no others. -/
theorem registerByte_inPlace_getLsbD (w : Word) (k : Fin 4) {i : Nat} (hi : i < 32) :
    ((registerByte w k).setWidth 32 <<< (8 * k.val)).getLsbD i = (decide (i / 8 = k) && w.getLsbD i) := by
  by_cases hk : i / 8 = k
  · have hle : 8 * k.val ≤ i := by omega
    have hlt : i - 8 * k.val < 8 := by omega
    simp [registerByte, hk, hi, hle, hlt]
  · have hout : i < 8 * k.val ∨ ¬ i - 8 * k.val < 8 := by omega
    obtain h | h := hout <;> simp [registerByte, hk, h]

/-- `registerOf` with every byte moved by the same expression, byte 0 too. -/
theorem registerOf_eq_inPlace (b : Fin 4 → Byte) :
    registerOf b = (b 3).setWidth 32 <<< (8 * (3 : Fin 4).val) ||| (b 2).setWidth 32 <<< (8 * (2 : Fin 4).val) |||
      (b 1).setWidth 32 <<< (8 * (1 : Fin 4).val) ||| (b 0).setWidth 32 <<< (8 * (0 : Fin 4).val) := by
  simp [registerOf]

/-- The four bytes of a register determine it: bit i comes from byte i / 8 alone. -/
@[simp] theorem registerOf_registerByte (w : Word) : registerOf (registerByte w) = w := by
  apply BitVec.eq_of_getLsbD_eq
  intro i hi
  have hbyte : i / 8 = 0 ∨ i / 8 = 1 ∨ i / 8 = 2 ∨ i / 8 = 3 := by omega
  simp only [registerOf_eq_inPlace, BitVec.getLsbD_or, registerByte_inPlace_getLsbD w _ hi]
  obtain h | h | h | h := hbyte <;> simp [h]

/-- Lane `order i` carries byte i (R52). -/
@[simp] theorem toLanes_getElem_order (order : Equiv.Perm (Fin 4)) (w : Word) (i : Fin 4) :
    (toLanes order w)[(order i).val] = registerByte w i := by
  simp [toLanes]

@[simp] theorem fromLanes_toLanes (order : Equiv.Perm (Fin 4)) (w : Word) : fromLanes order (toLanes order w) = w := by
  simp [fromLanes]

theorem windowOffset_eq_some_iff (base addr off : Nat) :
    windowOffset base addr = some off ↔ addr = base + off ∧ off < 0x40 := by
  rw [windowOffset, Option.ite_none_right_eq_some, Option.some.injEq]
  omega

theorem windowOffset_base_add (base : Nat) {off : Nat} (h : off < 0x40) : windowOffset base (base + off) = some off :=
  (windowOffset_eq_some_iff ..).2 ⟨rfl, h⟩

/-- Settles O59: the value survives the lanes (`fromLanes_toLanes`), the offset survives the base
(`windowOffset_base_add`), and an access is made of these two. -/
theorem busByteOrderAndWindowBaseDoNotMatter : Obligations.BusByteOrderAndWindowBaseDoNotMatter := by
  refine ⟨fromLanes_toLanes, windowOffset_eq_some_iff, fun base order width off v h => ⟨?write, ?read⟩⟩
  case write => simp [Transfer.access, windowOffset_base_add base h]
  case read => simp [Transfer.access, windowOffset_base_add base h]

end Sys2Proof.Machine
end

section
/-! PROOF. What an instruction can leave, as one list of effects, and which operations write the family parameters
(spec/44_control.md R140 to R143, 10_state.md R24, R28, R29). -/

namespace Sys2Proof.Machine

/-! The effects of an instruction. -/

/-- Everything an instruction can leave: the state with STATUS returned, or, after the wait of R142, an operation issued
and completed, a value returned, a length register written, or nothing changed. -/
inductive ExecEffect (s : State) (i : Instr) : State → Prop where
  | status (hi : i = .rdStatus) : ExecEffect s i (s.returnData (statusWord s))
  | operation {op : Op} (ho : operationOf i (settle s) = some op) : ExecEffect s i (complete (issue op (settle s)))
  | read (hi : operationOf i (settle s) = none) (w : Word) : ExecEffect s i ((settle s).returnData w)
  | writeNlen (hi : (∃ v, i = .wrNlenLo v) ∨ ∃ v, i = .wrNlenHi v) (x : Long) : ExecEffect s i ((settle s).withNlen x)
  | writeSlen (hi : (∃ v, i = .wrSlenLo v) ∨ ∃ v, i = .wrSlenHi v) (x : Long) : ExecEffect s i ((settle s).withSlen x)
  | writeOlen (hi : (∃ v, i = .wrOlenLo v) ∨ ∃ v, i = .wrOlenHi v) (x : Long) : ExecEffect s i ((settle s).withOlen x)
  | noEffect (hi : operationOf i (settle s) = none) : ExecEffect s i (settle s)

/-- Every instruction answers a next state, and it is one of the effects. -/
theorem exec_next_effect (i : Instr) (s : State) : ∃ t, exec i s = .next t ∧ ExecEffect s i t := by
  cases i
  case rdStatus => exact ⟨_, rfl, .status rfl⟩
  case init | start | startCshake | finish | reservedCmd | absorb | squeeze => exact ⟨_, rfl, .operation rfl⟩
  case rdInfo | rdIndex | rdRemLo | rdRemHi | rdNlenLo | rdNlenHi | rdSlenLo | rdSlenHi | rdOlenLo | rdOlenHi |
      noEffectRdCmd | noEffectRdDin | noEffectRd38 | noEffectRd3C =>
    exact ⟨_, rfl, .read rfl _⟩
  case wrNlenLo v => exact ⟨_, rfl, .writeNlen (.inl ⟨v, rfl⟩) _⟩
  case wrNlenHi v => exact ⟨_, rfl, .writeNlen (.inr ⟨v, rfl⟩) _⟩
  case wrSlenLo v => exact ⟨_, rfl, .writeSlen (.inl ⟨v, rfl⟩) _⟩
  case wrSlenHi v => exact ⟨_, rfl, .writeSlen (.inr ⟨v, rfl⟩) _⟩
  case wrOlenLo v => exact ⟨_, rfl, .writeOlen (.inl ⟨v, rfl⟩) _⟩
  case wrOlenHi v => exact ⟨_, rfl, .writeOlen (.inr ⟨v, rfl⟩) _⟩
  case noEffectWrStatus | noEffectWrDout | noEffectWrInfo | noEffectWrIndex | noEffectWrRemLo | noEffectWrRemHi |
      noEffectWr38 | noEffectWr3C =>
    exact ⟨_, rfl, .noEffect rfl⟩

theorem exec_effect {i : Instr} {s t : State} (h : exec i s = .next t) : ExecEffect s i t := by
  obtain ⟨u, hu, eff⟩ := exec_next_effect i s
  obtain rfl : u = t := Host.Outcome.next.inj (hu.symm.trans h)
  exact eff

/-! The family parameters. -/

/-- `d` has the family parameters of `c`. -/
def Context.SameParameters (c d : Context) : Prop :=
  d.rate = c.rate ∧ d.dlen = c.dlen ∧ d.suffix = c.suffix ∧ d.fid = c.fid

/-- SQUEEZE's move to the next byte, field by field (spec/42_sponge.md R115). -/
theorem advanceOutput_eq (c : Context) : advanceOutput c =
    { c with
      lanes := if c.index + 1 = c.rate ∧ c.rem - 1 ≠ 0 then keccakF c.lanes else c.lanes
      index := if c.index + 1 = c.rate then 0 else c.index + 1
      rem := c.rem - 1
      phase := if c.rem - 1 = 0 then .finalized else c.phase } := by
  by_cases hi : c.index + 1 = c.rate <;> by_cases hr : c.rem - 1 = 0 <;>
    simp only [advanceOutput, permute, hi, hr, ne_eq, not_true_eq_false, not_false_eq_true, and_true, and_false,
      if_true, if_false]

theorem advanceOutput_index (c : Context) :
    (advanceOutput c).index = if c.index + 1 = c.rate then 0 else c.index + 1 := by rw [advanceOutput_eq]

theorem advanceOutput_rem (c : Context) : (advanceOutput c).rem = c.rem - 1 := by rw [advanceOutput_eq]

theorem advanceOutput_lslen (c : Context) : (advanceOutput c).lslen = c.lslen := by rw [advanceOutput_eq]

theorem advanceOutput_phase (c : Context) :
    (advanceOutput c).phase = if c.rem - 1 = 0 then .finalized else c.phase := by rw [advanceOutput_eq]

theorem advanceOutput_sameParameters (c : Context) : c.SameParameters (advanceOutput c) := by
  rw [advanceOutput_eq]
  exact ⟨rfl, rfl, rfl, rfl⟩

theorem absorbByte_sameParameters (b : Byte) (c : Context) : c.SameParameters (absorbByte b c) := by
  simp [Context.SameParameters]

theorem preambleByte_sameParameters (b : Byte) (c : Context) : c.SameParameters (preambleByte b c) := by
  simp [Context.SameParameters, preambleByte, preambleAdvance]

theorem performAbsorb_sameParameters (b : Byte) (c : Context) : c.SameParameters (performAbsorb b c).ctx := by
  unfold performAbsorb
  split
  case h_1 => exact absorbByte_sameParameters b c
  case h_2 | h_3 => exact preambleByte_sameParameters b c
  case h_4 | h_5 | h_6 => exact ⟨rfl, rfl, rfl, rfl⟩

theorem performFinish_sameParameters (olen : Long) (c : Context) : c.SameParameters (performFinish olen c).ctx := by
  unfold performFinish
  split_ifs <;> exact ⟨rfl, rfl, rfl, rfl⟩

theorem performSqueeze_sameParameters (c : Context) : c.SameParameters (performSqueeze c).ctx := by
  unfold performSqueeze
  split_ifs
  · exact advanceOutput_sameParameters c
  · exact ⟨rfl, rfl, rfl, rfl⟩

/-- Only START, START_CSHAKE and INIT write the family parameters (spec/10_state.md R24). -/
theorem perform_sameParameters {op : Op} (c : Context) (hinit : op ≠ .init) (hstart : ∀ fid, op ≠ .start fid)
    (hcshake : ∀ fid n l, op ≠ .startCshake fid n l) : c.SameParameters (perform op c).ctx := by
  cases op with
  | init => exact absurd rfl hinit
  | start fid => exact absurd rfl (hstart fid)
  | startCshake fid n l => exact absurd rfl (hcshake fid n l)
  | finish olen => exact performFinish_sameParameters olen c
  | absorb b => exact performAbsorb_sameParameters b c
  | squeeze => exact performSqueeze_sameParameters c
  | reserved => exact ⟨rfl, rfl, rfl, rfl⟩

end Sys2Proof.Machine
end

section
/-! PROOF. Which instructions write which register (spec/10_state.md R24, R28, R29): each clause is read off the effects
an instruction can have. -/

namespace Sys2Proof.Machine

variable {i : Instr} {s t : State}

theorem eq_init_of_operationOf (h : operationOf i s = some .init) : i = .init := by
  cases i <;> cases h
  rfl

theorem eq_start_of_operationOf {fid : BitVec 4} (h : operationOf i s = some (.start fid)) : i = .start fid := by
  cases i <;> cases h
  rfl

theorem eq_startCshake_of_operationOf {fid : BitVec 4} {n l : Long}
    (h : operationOf i s = some (.startCshake fid n l)) : i = .startCshake fid := by
  cases i <;> cases h
  rfl

theorem ExecEffect.sameParameters (eff : ExecEffect s i t) (idle : s.busy = false) (hstart : ∀ fid, i ≠ .start fid)
    (hcshake : ∀ fid, i ≠ .startCshake fid) (hinit : i ≠ .init) : s.ctx.SameParameters t.ctx := by
  have hs : settle s = s := settle_idle s idle
  cases eff with
  | operation ho =>
    rw [hs] at ho ⊢
    rw [complete_issue]
    apply perform_sameParameters
    case hinit => rintro rfl; exact hinit (eq_init_of_operationOf ho)
    case hstart => rintro fid rfl; exact hstart fid (eq_start_of_operationOf ho)
    case hcshake => rintro fid n l rfl; exact hcshake fid (eq_startCshake_of_operationOf ho)
  | status | read | writeNlen | writeSlen | writeOlen | noEffect => simp [Context.SameParameters, hs]

theorem ExecEffect.nlen_eq (eff : ExecEffect s i t) (hlo : ∀ v, i ≠ .wrNlenLo v) (hhi : ∀ v, i ≠ .wrNlenHi v) :
    t.nlen = s.nlen := by
  cases eff with
  | writeNlen hi => simp [hlo, hhi] at hi
  | status | operation | read | writeSlen | writeOlen | noEffect => simp

theorem ExecEffect.slen_eq (eff : ExecEffect s i t) (hlo : ∀ v, i ≠ .wrSlenLo v) (hhi : ∀ v, i ≠ .wrSlenHi v) :
    t.slen = s.slen := by
  cases eff with
  | writeSlen hi => simp [hlo, hhi] at hi
  | status | operation | read | writeNlen | writeOlen | noEffect => simp

theorem ExecEffect.olen_eq (eff : ExecEffect s i t) (hlo : ∀ v, i ≠ .wrOlenLo v) (hhi : ∀ v, i ≠ .wrOlenHi v) :
    t.olen = s.olen := by
  cases eff with
  | writeOlen hi => simp [hlo, hhi] at hi
  | status | operation | read | writeNlen | writeSlen | noEffect => simp

/-- An instruction that is no operation leaves the context and both error bits. -/
theorem ExecEffect.plain (eff : ExecEffect s i t) (idle : s.busy = false) (ho : operationOf i s = none) :
    t.ctx = s.ctx ∧ t.lastErr = s.lastErr ∧ t.stickyErr = s.stickyErr := by
  have hs : settle s = s := settle_idle s idle
  cases eff with
  | operation ho' => simp [hs, ho] at ho'
  | status | read | writeNlen | writeSlen | writeOlen | noEffect => simp [hs]

/-- Only INIT clears STICKY_ERR (R29). -/
theorem ExecEffect.stickyErr_kept (eff : ExecEffect s i t) (idle : s.busy = false) (hinit : i ≠ .init)
    (h : s.stickyErr = true) : t.stickyErr = true := by
  have hs : settle s = s := settle_idle s idle
  cases eff with
  | @operation op ho =>
    have hop : op ≠ .init := by rintro rfl; exact hinit (eq_init_of_operationOf ho)
    simp [complete_issue, hs, hop, h]
  | status | read | writeNlen | writeSlen | writeOlen | noEffect => simpa [hs] using h

/-- Settles O30: each clause, read off the effect of the instruction. -/
theorem onlyTheNamedInstructionsWriteEachRegister : Obligations.OnlyTheNamedInstructionsWriteEachRegister := by
  intro i s t h
  have eff := exec_effect h
  exact ⟨eff.sameParameters, eff.nlen_eq, eff.slen_eq, eff.olen_eq, eff.stickyErr_kept, eff.plain⟩

end Sys2Proof.Machine
end

section
/-! PROOF. Reset establishes the invariants of spec/10_state.md R26 and R30, and every step keeps them. The invariant is
restated phase by phase; each operation then has to show the clause of the phase it leaves. -/

namespace Sys2Proof.Machine

/-! The invariant, phase by phase. -/

/-- What every phase but INITIAL requires: the parameters are the family's row, INDEX is inside the rate window. -/
def Context.InSession (c : Context) : Prop :=
  (lookupFamily c.fid).map (fun row => (row.rate, row.dlen)) = some (c.rate, c.dlen) ∧ c.index < c.rate

/-- The suffixes an ABSORBING session of a family can have. -/
def Context.SuffixLegal (c : Context) : Prop :=
  (isSha3 c.fid = true → c.suffix = 0x06) ∧ (c.fid = 5 ∨ c.fid = 6 → c.suffix = 0x1F) ∧
    (isCshake c.fid = true → c.suffix = 0x1F ∨ c.suffix = 0x04)

/-- A cSHAKE context in one of the preamble's phases, with REM not yet tested: what preamble_advance is called on. -/
def Context.InPreamble (c : Context) : Prop :=
  (c.phase = .preN ∨ c.phase = .preS) ∧ c.InSession ∧ isCshake c.fid = true ∧ c.suffix = 0x04 ∧
    c.lslen.toNat < 2 ^ 61

theorem Context.zero_inv : Context.zero.Inv := by decide

section Phases

variable {c : Context}

theorem Context.Inv.inSession (h : c.Inv) (hp : c.phase ≠ .initial) : c.InSession := h.2.1 hp

theorem Context.inv_iff_absorbing (hp : c.phase = .absorbing) :
    c.Inv ↔ c.InSession ∧ c.rem = 0 ∧ c.lslen = 0 ∧ c.SuffixLegal := by
  simp [Context.Inv, Context.InSession, Context.SuffixLegal, hp]

theorem Context.inv_iff_preamble (hp : c.phase = .preN ∨ c.phase = .preS) :
    c.Inv ↔ c.InPreamble ∧ c.rem ≠ 0 := by
  rcases hp with hp | hp <;> simp [Context.Inv, Context.InSession, Context.InPreamble, hp] <;> tauto

theorem Context.inv_iff_squeezing (hp : c.phase = .squeezing) :
    c.Inv ↔ c.InSession ∧ c.rem ≠ 0 ∧ c.lslen = 0 := by
  simp [Context.Inv, Context.InSession, hp]

theorem Context.inv_iff_finalized (hp : c.phase = .finalized) :
    c.Inv ↔ c.InSession ∧ c.rem = 0 ∧ c.lslen = 0 := by
  simp [Context.Inv, Context.InSession, hp]

end Phases

/-! A session goes on as long as the parameters stay and INDEX stays inside the window. -/

section Sessions

variable {c d : Context}

theorem Context.InSession.of_sameParameters (h : c.InSession) (hp : c.SameParameters d) (hi : d.index < c.rate) :
    d.InSession := by
  obtain ⟨hrate, hdlen, -, hfid⟩ := hp
  exact ⟨by rw [hrate, hdlen, hfid]; exact h.1, by rw [hrate]; exact hi⟩

theorem Context.InSession.rate_pos (h : c.InSession) : 0 < c.rate := by
  have := h.2
  bv_omega

theorem Context.SuffixLegal.of_sameParameters (h : c.SuffixLegal) (hp : c.SameParameters d) : d.SuffixLegal := by
  obtain ⟨-, -, hsuffix, hfid⟩ := hp
  rw [Context.SuffixLegal, hsuffix, hfid]
  exact h

/-- Both suffixes of a cSHAKE session are legal, since a cSHAKE family is neither SHA3 nor SHAKE. -/
theorem Context.suffixLegal_of_cshake (hf : isCshake c.fid = true) (hs : c.suffix = 0x1F ∨ c.suffix = 0x04) :
    c.SuffixLegal := by
  have disjoint : ∀ fid : BitVec 4, isCshake fid = true → isSha3 fid = false ∧ ¬ (fid = 5 ∨ fid = 6) := by decide
  obtain ⟨hsha, hshake⟩ := disjoint c.fid hf
  exact ⟨by simp [hsha], fun h => absurd h hshake, fun _ => hs⟩

theorem beginSession_inSession {fid : BitVec 4} {row row' : FamilyRow} (h : lookupFamily fid = some row)
    (hrate : row'.rate = row.rate) (hdlen : row'.dlen = row.dlen) : (beginSession fid row').InSession := by
  have hpos : 72 ≤ row.rate := (lookupFamily_rate fid row h).1
  refine ⟨by simp [beginSession, h, hrate, hdlen], ?_⟩
  show 0 < row'.rate
  rw [hrate]
  bv_omega

end Sessions

/-! START and START_CSHAKE. -/

/-- The table's suffix is a legal one. -/
theorem beginSession_suffixLegal {fid : BitVec 4} {row : FamilyRow} (h : lookupFamily fid = some row) :
    (beginSession fid row).SuffixLegal := by
  have all : ∀ fid : BitVec 4, ∀ row ∈ lookupFamily fid, (isSha3 fid = true → row.suffix = 0x06) ∧
      (fid = 5 ∨ fid = 6 → row.suffix = 0x1F) ∧ (isCshake fid = true → row.suffix = 0x1F ∨ row.suffix = 0x04) := by
    decide
  exact all fid row h

/-- The table's digest length of a cSHAKE family is 0, the value START_CSHAKE writes. -/
theorem lookupFamily_cshake_dlen {fid : BitVec 4} {row : FamilyRow} (hf : isCshake fid = true)
    (h : lookupFamily fid = some row) : row.dlen = 0 := by
  have all : ∀ fid : BitVec 4, isCshake fid = true → ∀ row ∈ lookupFamily fid, row.dlen = 0 := by decide
  exact all fid hf row h

theorem performStart_inv (fid : BitVec 4) : (performStart fid).ctx.Inv := by
  unfold performStart
  split
  case h_1 => exact Context.zero_inv
  case h_2 row h =>
    exact (Context.inv_iff_absorbing rfl).2 ⟨beginSession_inSession h rfl rfl, rfl, rfl, beginSession_suffixLegal h⟩

/-- A preamble whose last string byte is in is an ABSORBING session. -/
theorem Context.InPreamble.inv_of_done {c d : Context} (h : c.InPreamble) (hp : c.SameParameters d)
    (hi : d.index = 0) (hrem : d.rem = 0) (hlslen : d.lslen = 0) (hphase : d.phase = .absorbing) : d.Inv := by
  obtain ⟨-, hsession, hfid, hsuffix, -⟩ := h
  have hd : d.InSession := hsession.of_sameParameters hp (hi ▸ hsession.rate_pos)
  obtain ⟨-, -, hsuffix', hfid'⟩ := hp
  exact (inv_iff_absorbing hphase).2
    ⟨hd, hrem, hlslen, suffixLegal_of_cshake (hfid' ▸ hfid) (.inr (hsuffix'.trans hsuffix))⟩

/-- preamble_advance leaves the invariant, whatever REM is. -/
theorem preambleAdvance_inv {c : Context} (h : c.InPreamble) : (preambleAdvance c).Inv := by
  have ⟨hphase, hsession, hfid, hsuffix, hlslen⟩ := h
  obtain ⟨heq, hN, hS⟩ | ⟨hpN, hrem, hl, heq⟩ | ⟨hpN, hrem, hl, heq⟩ | ⟨hpS, hrem, heq⟩ := preambleAdvance_cases c
  · rw [heq]
    exact (Context.inv_iff_preamble hphase).2 ⟨h, fun hrem => hphase.elim (hN ⟨·, hrem⟩) (hS ⟨·, hrem⟩)⟩
  · rw [heq, Context.inv_iff_preamble (.inr rfl)]
    have hin : Context.InSession
        { absorbBytes (leftEncode (8 * c.lslen.toNat)) c with rem := c.lslen, phase := .preS } :=
      hsession.of_sameParameters (by simp [Context.SameParameters]) (absorbBytes_index_lt _ c hsession.2)
    exact ⟨⟨.inr rfl, hin, by simpa using hfid, by simpa using hsuffix, by simpa using hlslen⟩, hl⟩
  all_goals
    rw [heq]
    exact h.inv_of_done (by simp [Context.SameParameters]) (by simp) (by simpa using hrem) rfl rfl

theorem beginPreamble_inv {c : Context} {nlen slen : Long} (h : c.InSession) (hf : isCshake c.fid = true)
    (hs : slen.toNat < 2 ^ 61) : (beginPreamble c nlen slen).Inv := by
  unfold beginPreamble
  refine preambleAdvance_inv ⟨.inl rfl, ?_, by simpa using hf, by simp, hs⟩
  refine ⟨by simpa using h.1, ?_⟩
  simpa using absorbBytes_index_lt _ { c with suffix := 0x04 } h.2

theorem performStartCshake_inv (fid : BitVec 4) (nlen slen : Long) : (performStartCshake fid nlen slen).ctx.Inv := by
  unfold performStartCshake
  split
  case isTrue => exact Context.zero_inv
  case isFalse legal =>
    simp only [not_or, Bool.not_eq_false, not_le] at legal
    obtain ⟨hf, -, hs⟩ := legal
    split
    case h_1 => exact Context.zero_inv
    case h_2 row h =>
      have hin : (beginSession fid { row with dlen := 0, suffix := 0x1F }).InSession :=
        beginSession_inSession h rfl (lookupFamily_cshake_dlen hf h).symm
      dsimp only
      split
      case isTrue =>
        exact (Context.inv_iff_absorbing rfl).2 ⟨hin, rfl, rfl, Context.suffixLegal_of_cshake hf (.inl rfl)⟩
      case isFalse => exact beginPreamble_inv hin hf hs

/-! ABSORB, FINISH and SQUEEZE. -/

theorem absorbByte_inSession (b : Byte) {c : Context} (h : c.InSession) : (absorbByte b c).InSession :=
  h.of_sameParameters (absorbByte_sameParameters b c) (by simpa using absorbByte_index_lt b c h.2)

theorem preambleByte_inv (b : Byte) {c : Context} (h : c.InPreamble) : (preambleByte b c).Inv := by
  obtain ⟨hphase, hsession, hfid, hsuffix, hlslen⟩ := h
  exact preambleAdvance_inv ⟨by simpa using hphase, absorbByte_inSession b hsession, by simpa using hfid,
    by simpa using hsuffix, by simpa using hlslen⟩

theorem performAbsorb_inv (b : Byte) {c : Context} (h : c.Inv) : (performAbsorb b c).ctx.Inv := by
  unfold performAbsorb
  split
  case h_1 hp =>
    obtain ⟨hsession, hrem, hlslen, hsuffix⟩ := (Context.inv_iff_absorbing hp).1 h
    exact (Context.inv_iff_absorbing (by simpa [succeed] using hp)).2 ⟨absorbByte_inSession b hsession,
      by simpa [succeed] using hrem, by simpa [succeed] using hlslen,
      hsuffix.of_sameParameters (absorbByte_sameParameters b c)⟩
  case h_2 hp => exact preambleByte_inv b ((Context.inv_iff_preamble (.inl hp)).1 h).1
  case h_3 hp => exact preambleByte_inv b ((Context.inv_iff_preamble (.inr hp)).1 h).1
  case h_4 | h_5 | h_6 => exact h

theorem performFinish_inv (olen : Long) {c : Context} (h : c.Inv) : (performFinish olen c).ctx.Inv := by
  unfold performFinish
  split_ifs with hinitial hphase hlen hz
  · exact h
  · exact (Context.inv_iff_finalized rfl).2 ⟨h.inSession hinitial, rfl, rfl⟩
  all_goals obtain ⟨hsession, -, hlslen, -⟩ := (Context.inv_iff_absorbing (not_not.1 hphase)).1 h
  · exact (Context.inv_iff_finalized rfl).2 ⟨hsession, rfl, hlslen⟩
  · exact (Context.inv_iff_finalized rfl).2 ⟨⟨hsession.1, hsession.rate_pos⟩, hz, hlslen⟩
  · exact (Context.inv_iff_squeezing rfl).2 ⟨⟨hsession.1, hsession.rate_pos⟩, hz, hlslen⟩

theorem performSqueeze_inv {c : Context} (h : c.Inv) : (performSqueeze c).ctx.Inv := by
  unfold performSqueeze
  split
  case isFalse => exact h
  case isTrue hp =>
    obtain ⟨hsession, hrem, hlslen⟩ := (Context.inv_iff_squeezing hp).1 h
    have hin : (advanceOutput c).InSession := by
      refine hsession.of_sameParameters (advanceOutput_sameParameters c) ?_
      have hi : c.index < c.rate := hsession.2
      rw [advanceOutput_index]
      split <;> bv_omega
    have hr : (advanceOutput c).rem = c.rem - 1 := advanceOutput_rem c
    have hl : (advanceOutput c).lslen = 0 := (advanceOutput_lslen c).trans hlslen
    by_cases hz : c.rem - 1 = 0
    · have hp' : (advanceOutput c).phase = .finalized := (advanceOutput_phase c).trans (if_pos hz)
      exact (Context.inv_iff_finalized hp').2 ⟨hin, hr.trans hz, hl⟩
    · have hp' : (advanceOutput c).phase = .squeezing := ((advanceOutput_phase c).trans (if_neg hz)).trans hp
      exact (Context.inv_iff_squeezing hp').2 ⟨hin, hr ▸ hz, hl⟩

/-- Every operation keeps the invariants of the context (R26). -/
theorem perform_inv (op : Op) {c : Context} (h : c.Inv) : (perform op c).ctx.Inv := by
  cases op with
  | init => exact Context.zero_inv
  | start fid => exact performStart_inv fid
  | startCshake fid nlen slen => exact performStartCshake_inv fid nlen slen
  | finish olen => exact performFinish_inv olen h
  | absorb b => exact performAbsorb_inv b h
  | squeeze => exact performSqueeze_inv h
  | reserved => exact h

/-! The machine. -/

section Machine

variable {s t : State}

theorem complete_inv (h : s.ctx.Inv) : (complete s).Inv := by
  refine ⟨?_, by simp⟩
  unfold complete
  split
  case h_1 => exact h
  case h_2 op _ => simpa using perform_inv op h

theorem settle_inv (h : s.Inv) : (settle s).Inv := by
  unfold settle
  split
  case isTrue => exact complete_inv h.1
  case isFalse => exact h

/-- Every instruction keeps the invariants. -/
theorem exec_inv {i : Instr} (h : s.Inv) (he : exec i s = .next t) : t.Inv := by
  cases exec_effect he with
  | status => exact h
  | operation => exact complete_inv (by simpa using (settle_inv h).1)
  | read | writeNlen | writeSlen | writeOlen | noEffect => exact settle_inv h

/-- Every event of the host keeps the invariants. -/
theorem hostStep_inv {e : Event} (h : s.Inv) (he : hostStep e s = .next t) : t.Inv := by
  obtain ⟨-, heq⟩ | ⟨-, heq⟩ | ⟨a, d, -, -, heq⟩ | ⟨a, i, -, -, heq | heq⟩ | ⟨a, i, op, -, -, -, -, -, heq⟩ :=
    hostStep_cases e s <;> rw [heq] at he
  · cases he; exact ⟨Context.zero_inv, rfl⟩
  · exact exec_inv (by split <;> exact h) he
  · cases he
  · exact exec_inv h he
  · exact exec_inv (s := s.takeTurn) h he
  · cases he; exact ⟨by simpa using h.1, by simp⟩

end Machine

/-- Settles O3: a step is nothing, a completion or an event of the host, and each keeps the invariants. -/
theorem everyStepKeepsTheInvariant : Obligations.EveryStepKeepsTheInvariant := by
  intro s t h hstep
  obtain ⟨-, -, heq⟩ | ⟨-, heq⟩ | ⟨e, rest, -, -, -, -, heq⟩ | ⟨e, rest, -, -, heq⟩ := step_cases s <;>
    rw [heq] at hstep
  · cases hstep; exact h
  · cases hstep; exact complete_inv h.1
  · exact hostStep_inv (s := s.takeTurn.withHost rest) h hstep
  · exact hostStep_inv (s := s.withHost rest) h hstep

/-- Settles O1: the reset values are the literals of `State.reset` (R34). -/
theorem resetHoldsTheSpecValues : Obligations.ResetHoldsTheSpecValues :=
  ⟨lane_zero, by decide⟩

/-- Settles O2: the context is the cleared one, and nothing is pending. -/
theorem resetMeetsTheInvariant : Obligations.ResetMeetsTheInvariant := ⟨Context.zero_inv, rfl⟩

end Sys2Proof.Machine
end

section
/-! PROOF. The byte view of S (spec/10_state.md R22, R23): bit b of byte j is bit 8·(j mod 8) + b of lane j div 8, and
everything else about the view is read off the bits. -/

namespace Sys2Proof.Machine

variable (A : Lanes)

/-- Bit b of Sb[j] (R22). -/
theorem byteAt_getLsbD {j b : Nat} (hj : j < 200) (hb : b < 8) :
    (A.byteAt j).getLsbD b = (A[j / 8]'(by omega)).getLsbD (8 * (j % 8) + b) := by
  unfold Lanes.byteAt
  rw [dif_pos (by omega)]
  simp [hb]

/-- A write of Sb[j] changes bits 8i+7 to 8i of its lane and no other bit of S (R22). -/
theorem setByte_getLsbD {j k z : Nat} (v : Byte) (hk : k < 25) (hz : z < 64) :
    (A.setByte j v)[k].getLsbD z = if 8 * k + z / 8 = j then v.getLsbD (z % 8) else A[k].getLsbD z := by
  by_cases hlane : j / 8 = k
  · subst hlane
    have hset : (A.setByte j v)[j / 8] = A[j / 8] &&& ~~~((0xFF : Long) <<< (8 * (j % 8))) |||
        v.setWidth 64 <<< (8 * (j % 8)) := by
      unfold Lanes.setByte
      rw [dif_pos hk, Vector.getElem_set_self]
    have hmask : (0xFF : Long).getLsbD (z - 8 * (j % 8)) = decide (z - 8 * (j % 8) < 8) := by
      have all : ∀ n < 64, (0xFF : Long).getLsbD n = decide (n < 8) := by decide
      exact all _ (by omega)
    simp only [hset, BitVec.getLsbD_or, BitVec.getLsbD_and, BitVec.getLsbD_not, BitVec.getLsbD_shiftLeft,
      BitVec.getLsbD_setWidth, hmask, hz]
    obtain hlow | hin | hhigh : z < 8 * (j % 8) ∨ z / 8 = j % 8 ∨ 8 * (j % 8) + 8 ≤ z := by omega
    · rw [if_neg (by omega)]
      simp [hlow]
    · rw [if_pos (by omega)]
      have hbit : z - 8 * (j % 8) = z % 8 := by omega
      have hge : ¬ z < 8 * (j % 8) := by omega
      simp [hbit, hge, show z % 8 < 8 by omega, show z % 8 < 64 by omega]
    · rw [if_neg (by omega)]
      have hge : ¬ z - 8 * (j % 8) < 8 := by omega
      simp [hge, BitVec.getLsbD_of_ge v (z - 8 * (j % 8)) (by omega)]
  · rw [setByte_getElem_other A j v k hk hlane, if_neg (by omega)]

/-- Reading after a write: the byte written reads back, every other byte reads as before. -/
theorem byteAt_setByte {j k : Nat} (v : Byte) (hk : k < 200) :
    (A.setByte j v).byteAt k = if k = j then v else A.byteAt k := by
  apply BitVec.eq_of_getLsbD_eq
  intro b hb
  rw [byteAt_getLsbD _ hk hb, setByte_getLsbD A v (by omega) (by omega)]
  by_cases h : k = j
  · rw [if_pos (by omega), if_pos h, show (8 * (k % 8) + b) % 8 = b by omega]
  · rw [if_neg (by omega), if_neg h, byteAt_getLsbD A hk hb]

/-- Reading after an XOR into the view. -/
theorem byteAt_xorByte {j k : Nat} (v : Byte) (hk : k < 200) :
    (A.xorByte j v).byteAt k = if k = j then A.byteAt k ^^^ v else A.byteAt k := by
  rw [Lanes.xorByte, byteAt_setByte A _ hk]
  by_cases h : k = j
  · rw [if_pos h, if_pos h, h]
  · rw [if_neg h, if_neg h]

/-- Byte i of lane k of the view is bits 8i+7 to 8i of the lane. -/
theorem byteAt_lane (x y : Fin 5) {i : Nat} (hi : i < 8) :
    A.byteAt (8 * (x.val + 5 * y.val) + i) = (A.lane x y).extractLsb' (8 * i) 8 := by
  apply BitVec.eq_of_getLsbD_eq
  intro b hb
  have hlane : (8 * (x.val + 5 * y.val) + i) / 8 = x.val + 5 * y.val := by omega
  have hbyte : (8 * (x.val + 5 * y.val) + i) % 8 = i := by omega
  rw [byteAt_getLsbD A (by omega) hb]
  simp [hlane, hbyte, hb, Lanes.lane]

/-- The 200 bytes determine S: bit z of lane k is bit z mod 8 of byte 8k + z div 8. -/
theorem lanes_eq_of_byteAt {A B : Lanes} (h : ∀ j < 200, A.byteAt j = B.byteAt j) : A = B := by
  apply Vector.ext
  intro k hk
  apply BitVec.eq_of_getLsbD_eq
  intro z hz
  have hbit := congrArg (fun v => v.getLsbD (z % 8)) (h (8 * k + z / 8) (by omega))
  have hlane : (8 * k + z / 8) / 8 = k := by omega
  have hpos : 8 * ((8 * k + z / 8) % 8) + z % 8 = z := by omega
  simpa only [byteAt_getLsbD _ (show 8 * k + z / 8 < 200 by omega) (show z % 8 < 8 by omega), hlane, hpos] using hbit

/-- Settles O40: the three clauses are `byteAt_lane`, `byteAt_setByte` and `lanes_eq_of_byteAt`. -/
theorem byteViewIsLittleEndianAndWritesOneByte : Obligations.ByteViewIsLittleEndianAndWritesOneByte :=
  fun A => ⟨fun x y _ hi => byteAt_lane A x y hi, fun _ _ v _ hk => byteAt_setByte A v hk,
    fun _ h => lanes_eq_of_byteAt h⟩

/-! ABSORB below the rate boundary. -/

theorem absorbByte_lanes_inside (b : Byte) {c : Context} (h : c.index + 1 ≠ c.rate) :
    (absorbByte b c).lanes = c.lanes.xorByte c.index.toNat b := by
  rw [absorbByte_eq, if_neg h]

/-- Settles O39: ABSORB is `absorbByte`, which below the boundary XORs into Sb[INDEX] alone. -/
theorem absorbChangesOneByteOfTheWindow : Obligations.AbsorbChangesOneByteOfTheWindow := by
  intro v s idle hinv hphase hinside
  have hsession : s.ctx.InSession := hinv.inSession (by simp [hphase])
  have hindex : s.ctx.index.toNat < s.ctx.rate.toNat := hsession.2
  refine ⟨hindex, _, exec_operation s _ (.absorb v) idle rfl, fun j hj => ?_⟩
  have hperform : perform (latchAbsorb v s) s.ctx = succeed (absorbByte (dinByte v) s.ctx) := by
    simp [perform, latchAbsorb, performAbsorb, hphase]
  rw [complete_issue, hperform]
  exact (congrArg (Lanes.byteAt · j) (absorbByte_lanes_inside _ hinside)).trans
    (byteAt_xorByte s.ctx.lanes _ hj)

end Sys2Proof.Machine
end

section
/-! PROOF. The decoder answers on the admitted accesses and names the test that any other fails (spec/20_memory.md R48,
44_control.md R156). -/

namespace Sys2Proof

theorem decodeRead_isSome_iff (off : Nat) : (decodeRead off).isSome ↔ off % 4 = 0 ∧ off < 0x40 := by
  constructor
  · intro h
    unfold decodeRead at h
    split at h <;> simp at h ⊢
  · rintro ⟨h4, hlt⟩
    obtain ⟨k, rfl⟩ := Nat.dvd_of_mod_eq_zero h4
    have registers : ∀ k < 16, (decodeRead (4 * k)).isSome := by decide
    exact registers k (by omega)

/-- Each register is written at the offset it is read at. -/
theorem decodeWrite_isSome (off : Nat) (v : Word) : (decodeWrite off v).isSome = (decodeRead off).isSome := by
  unfold decodeWrite
  split
  case h_17 => simp [decodeRead, *]
  all_goals rfl

theorem decodeAdmitted_isSome_iff (a : Access) : (decodeAdmitted a).isSome ↔ a.off % 4 = 0 ∧ a.off < 0x40 := by
  cases a with
  | read width off => exact decodeRead_isSome_iff off
  | write width off v =>
    rw [decodeAdmitted, decodeWrite_isSome]
    exact decodeRead_isSome_iff off

theorem decode_of_width_ne {a : Access} (hw : a.width ≠ .word) : decode a = .error .width := by
  simp [decode, hw]

theorem decode_of_misaligned {a : Access} (hw : a.width = .word) (h4 : a.off % 4 ≠ 0) :
    decode a = .error .misaligned := by
  simp [decode, hw, h4]

theorem decode_of_outside {a : Access} (hw : a.width = .word) (h4 : a.off % 4 = 0) (hout : 0x40 ≤ a.off) :
    decode a = .error .outside := by
  have hnone : decodeAdmitted a = none := by
    rw [← Option.not_isSome_iff_eq_none, decodeAdmitted_isSome_iff]
    omega
  simp [decode, hw, h4, hnone]

theorem exists_decode_iff (a : Access) : (∃ i, decode a = .ok i) ↔ a.admitted := by
  constructor
  · rintro ⟨i, hi⟩
    obtain ⟨hw, -, hsome⟩ := decode_ok_admitted a i hi
    exact ⟨hw, (decodeAdmitted_isSome_iff a).1 (by simp [hsome])⟩
  · rintro ⟨hw, hoff⟩
    obtain ⟨i, hi⟩ := Option.isSome_iff_exists.1 ((decodeAdmitted_isSome_iff a).2 hoff)
    exact ⟨i, by simp [decode, hw, hoff, hi]⟩

/-- Settles O7: one lemma for the accesses that decode, and one for each test that an access fails. -/
theorem decodeAnswersExactlyTheAdmittedAccesses : Obligations.DecodeAnswersExactlyTheAdmittedAccesses :=
  fun a => ⟨exists_decode_iff a, decode_of_width_ne, decode_of_misaligned, decode_of_outside⟩

end Sys2Proof
end

section
/-! PROOF. Where the machine stops (spec/60_exceptions.md R174, 44_control.md R156): only the host's event can be
refused, and of the events only an access that does not decode. -/

namespace Sys2Proof.Machine

variable {s : State} {e : Event} {a : Access} {rest : List Event} {d : DecodeError} {r : Refusal}

/-- At BUSY = 0 a step is the host's next event. -/
theorem step_idle (idle : s.busy = false) (hhost : s.host = e :: rest) : step s = hostStep e (s.withHost rest) := by
  simp [step, machineStep, idle, hhost]

theorem exec_ne_refused (i : Instr) (s : State) (r : Refusal) : exec i s ≠ .refused r := by
  obtain ⟨t, ht, -⟩ := exec_next_effect i s
  simp [ht]

theorem exists_access_of_hostStep_refused (h : hostStep e s = .refused r) : ∃ a, e = .access a ∧ ¬ a.admitted := by
  obtain ⟨-, heq⟩ | ⟨-, heq⟩ | ⟨a, d, rfl, hd, -⟩ | ⟨a, i, -, -, heq | heq⟩ | ⟨a, i, op, -, -, -, -, -, heq⟩ :=
    hostStep_cases e s
  · cases heq.symm.trans h
  · exact (exec_ne_refused _ _ _ (heq.symm.trans h)).elim
  · refine ⟨a, rfl, fun hadm => ?_⟩
    obtain ⟨i, hi⟩ := (exists_decode_iff a).2 hadm
    simp [hd] at hi
  · exact (exec_ne_refused _ _ _ (heq.symm.trans h)).elim
  · exact (exec_ne_refused _ _ _ (heq.symm.trans h)).elim
  · cases heq.symm.trans h

/-- The one access that BUSY does not hold is admitted. -/
theorem admitted_of_neverHeld (h : neverHeld (.access a) = true) : a.admitted := by
  obtain rfl : a = .read .word 0x04 := by simpa [neverHeld] using h
  decide

theorem step_refused (h : step s = .refused r) :
    s.busy = false ∧ ∃ a rest, s.host = .access a :: rest ∧ ¬ a.admitted := by
  obtain ⟨-, -, heq⟩ | ⟨-, heq⟩ | ⟨e, rest, -, -, -, hnever, heq⟩ | ⟨e, rest, hhost, idle, heq⟩ := step_cases s <;>
    rw [heq] at h
  · cases h
  · cases h
  · obtain ⟨a, rfl, hadm⟩ := exists_access_of_hostStep_refused h
    exact absurd (admitted_of_neverHeld hnever) hadm
  · obtain ⟨a, rfl, hadm⟩ := exists_access_of_hostStep_refused h
    exact ⟨idle, a, rest, hhost, hadm⟩

theorem step_of_decode_error (idle : s.busy = false) (hhost : s.host = .access a :: rest)
    (hd : decode a = .error d) : step s = .refused (refusalOf d) := by
  rw [step_idle idle hhost]
  simp [hostStep, hd]

/-- Settles O16: a refused step is the host's access at BUSY = 0 (`step_refused`), and the decoder names what is wrong
with it. -/
theorem onlyInadmissibleAccessesStopTheMachine : Obligations.OnlyInadmissibleAccessesStopTheMachine :=
  ⟨fun _ f => (nomatch f), fun _ _ => step_refused, fun _ _ _ idle hhost =>
    ⟨fun hw => step_of_decode_error idle hhost (decode_of_width_ne hw),
      fun hw h4 => step_of_decode_error idle hhost (decode_of_misaligned hw h4),
      fun hw h4 hout => step_of_decode_error idle hhost (decode_of_outside hw h4 hout)⟩⟩

end Sys2Proof.Machine
end

section
/-! PROOF. Every schedule performs the accesses in order (spec/20_memory.md R58, 44_control.md R142, R143,
70_reset_and_hazards.md R183). An instruction neither reads nor writes the host's list and the turns; so the run, with
its own two lists, keeps in step with the accesses performed whole, one after the other. -/

namespace Sys2Proof.Machine

/-- The same engine with another list of events and other turns. -/
def State.withSchedule (s : State) (es : List Event) (ts : List Turn) : State := { s with host := es, turns := ts }

section Schedule

variable (s : State) (es : List Event) (ts : List Turn)

@[simp] theorem State.withSchedule_busy : (s.withSchedule es ts).busy = s.busy := rfl
@[simp] theorem State.withSchedule_host : (s.withSchedule es ts).host = es := rfl
@[simp] theorem State.withSchedule_turns : (s.withSchedule es ts).turns = ts := rfl
@[simp] theorem State.withSchedule_self : s.withSchedule s.host s.turns = s := rfl
@[simp] theorem State.withHost_withSchedule (es' : List Event) :
    (s.withSchedule es ts).withHost es' = s.withSchedule es' ts := rfl
@[simp] theorem State.takeTurn_withSchedule :
    (s.withSchedule es ts).takeTurn = s.withSchedule es ts.tail := rfl

@[simp] theorem operationOf_withSchedule (i : Instr) : operationOf i (s.withSchedule es ts) = operationOf i s := by
  cases i <;> rfl

@[simp] theorem issue_withSchedule (op : Op) :
    issue op (s.withSchedule es ts) = (issue op s).withSchedule es ts := by
  cases op <;> rfl

theorem complete_issue_withSchedule (op : Op) :
    complete ((issue op s).withSchedule es ts) = (complete (issue op s)).withSchedule es ts := by
  rw [← issue_withSchedule, complete_issue, complete_issue]
  rfl

end Schedule

section Exec

variable {s t : State} {i : Instr} (es : List Event) (ts : List Turn)

/-- An instruction does the same to the engine under any schedule, and leaves the schedule. -/
theorem exec_withSchedule (idle : s.busy = false) (h : exec i s = .next t) :
    exec i (s.withSchedule es ts) = .next (t.withSchedule es ts) := by
  cases ho : operationOf i s with
  | some op =>
    rw [exec_operation s op i idle ho] at h
    cases h
    rw [exec_operation (s.withSchedule es ts) op i idle (by simp [ho]), issue_withSchedule, complete_issue_withSchedule]
  | none =>
    have hs : settle (s.withSchedule es ts) = (settle s).withSchedule es ts := by
      rw [settle_idle (s.withSchedule es ts) idle, settle_idle s idle]
    cases i
    case init | start | startCshake | finish | reservedCmd | absorb | squeeze => cases ho
    case rdStatus => cases h; rfl
    all_goals
      cases h
      -- the meaning unfolded once: its body speaks of `settle` of the rescheduled state
      change Host.Outcome.next _ = _
      rw [hs] <;> rfl

/-- A state where nothing is pending is followed by one where nothing is pending. -/
theorem exec_next_idle (i : Instr) (idle : s.busy = false) : ∃ t, exec i s = .next t ∧ t.busy = false := by
  obtain ⟨t, ht, eff⟩ := exec_next_effect i s
  refine ⟨t, ht, ?_⟩
  cases eff with
  | status => exact idle
  | operation | read | writeNlen | writeSlen | writeOlen | noEffect => simp

end Exec

/-! Runs. -/

theorem run_succ {M : Host.Core} {s t : M.State} (h : M.step s = .next t) (k : Nat) : M.run (k + 1) s = M.run k t := by
  rw [Host.Core.run, h]

/-- While a held access, or nothing, is next, the step after an issue is the completion. -/
theorem step_busy_held {s : State} (busy : s.busy = true) (hheld : ∀ e ∈ s.host.head?, neverHeld e = false) :
    step s = .next (complete s.takeTurn) := by
  obtain ⟨-, idle, -⟩ | ⟨-, heq⟩ | ⟨e, rest, hhost, -, -, hnever, -⟩ | ⟨e, rest, -, idle, -⟩ := step_cases s
  · simp [busy] at idle
  · exact heq
  · simp [hheld e (by simp [hhost])] at hnever
  · simp [busy] at idle

section Run

variable {s t : State} {a : Access} {i : Instr} {rest : List Event}

/-- One access of the run, with the completion if it is an operation: the engine is left as the access leaves it when it
is performed whole, and the host's list is one access shorter. -/
theorem run_access (idle : s.busy = false) (hd : decode a = .ok i) (ht : exec i s = .next t)
    (hheld : ∀ e ∈ rest.head?, neverHeld e = false) (ts : List Turn) :
    ∃ j ts', ∀ k, Host.Core.run core (k + j) (s.withSchedule (.access a :: rest) ts) =
      Host.Core.run core k (t.withSchedule rest ts') := by
  have hstep : step (s.withSchedule (.access a :: rest) ts) = hostPerforms i (s.withSchedule rest ts) := by
    rw [step_idle (s := s.withSchedule (.access a :: rest) ts) idle rfl]
    simp [hostStep, hd, idle]
  cases ho : operationOf i s with
  | none =>
    have hplain : step (s.withSchedule (.access a :: rest) ts) = .next (t.withSchedule rest ts) := by
      simpa [hstep, hostPerforms, ho] using exec_withSchedule rest ts idle ht
    exact ⟨1, ts, run_succ hplain⟩
  | some op =>
    cases hf : hostFirst (s.withSchedule rest ts) with
    | false =>
      have hwhole : step (s.withSchedule (.access a :: rest) ts) = .next (t.withSchedule rest ts.tail) := by
        simpa [hstep, hostPerforms, ho, hf] using exec_withSchedule rest ts.tail idle ht
      exact ⟨1, ts.tail, run_succ hwhole⟩
    | true =>
      have hissue : step (s.withSchedule (.access a :: rest) ts) = .next ((issue op s).withSchedule rest ts.tail) := by
        simp [hstep, hostPerforms, ho, hf]
      have hcomplete : step ((issue op s).withSchedule rest ts.tail) = .next (t.withSchedule rest ts.tail.tail) := by
        rw [exec_operation s op i idle ho] at ht
        cases ht
        rw [step_busy_held (by simp) hheld, State.takeTurn_withSchedule, complete_issue_withSchedule]
      exact ⟨2, ts.tail.tail, fun k => (run_succ hissue (k + 1)).trans (run_succ hcomplete k)⟩

end Run

/-- No list of accesses without STATUS reads begins with an event that BUSY does not hold. -/
theorem neverHeld_head_accesses {as : List Access} (h : ∀ a ∈ as, a ≠ .read .word 0x04) :
    ∀ e ∈ (as.map Event.access).head?, neverHeld e = false := by
  cases as with
  | nil => simp
  | cons a as => simpa [neverHeld] using h a

/-- The run and the accesses performed whole, in step: they end with the same engine. -/
theorem run_performInOrder (as : List Access) : ∀ (s : State) (ts : List Turn),
    (∀ a ∈ as, a.admitted ∧ a ≠ .read .word 0x04) → s.busy = false →
    ∃ k u ts', Host.Core.run core k (s.withSchedule (as.map .access) ts) = .next (u.withSchedule [] ts') ∧
      performInOrder as s = .next u ∧ u.busy = false := by
  induction as with
  | nil => exact fun s ts _ idle => ⟨0, s, ts, rfl, rfl, idle⟩
  | cons a as ih =>
    intro s ts hall idle
    obtain ⟨⟨hadm, -⟩, hrest⟩ := List.forall_mem_cons.1 hall
    obtain ⟨i, hd⟩ := (exists_decode_iff a).2 hadm
    obtain ⟨t, ht, idle'⟩ := exec_next_idle i idle
    obtain ⟨j, ts', hrun⟩ := run_access idle hd ht (neverHeld_head_accesses fun a ha => (hrest a ha).2) ts
    obtain ⟨k, u, ts'', hend, hperf, hu⟩ := ih t ts' hrest idle'
    refine ⟨k + j, u, ts'', (hrun k).trans hend, ?_, hu⟩
    simp [performInOrder, hd, ht, hperf]

/-- Settles O21: `run_performInOrder` from the state's own schedule. -/
theorem everySchedulePerformsTheAccessesInOrder : Obligations.EverySchedulePerformsTheAccessesInOrder := by
  intro as s hall idle hhost
  obtain ⟨k, u, ts, hrun, hperf, hu⟩ := run_performInOrder as s s.turns hall idle
  rw [← hhost, State.withSchedule_self] at hrun
  exact ⟨k, u.withSchedule [] ts, u, hrun, ⟨rfl, hu⟩, hperf, rfl⟩

end Sys2Proof.Machine
end

section
/-! PROOF. The halves of a length register (spec/30_encoding.md R72, 20_memory.md R52), and the accesses with no effect
(20_memory.md R49, R50, 44_control.md R153). -/

namespace Sys2Proof.Machine

theorem lowHalf_assemble (hi lo : Word) : lowHalf (assemble hi lo) = lo := by
  apply BitVec.eq_of_getLsbD_eq
  intro b hb
  simp [lowHalf, assemble, hb, show b < 64 by omega]

/-- A LO write and then a HI write leave nothing of the register's old value. -/
theorem setHigh_setLow (r : Long) (hi lo : Word) : setHigh (setLow r lo) hi = assemble hi lo := by
  rw [setHigh, setLow, lowHalf_assemble]

/-- Settles O28: each pair of writes is `setLow` and then `setHigh`, and the operand is the register. -/
theorem twoHalfWritesAssembleTheLength : Obligations.TwoHalfWritesAssembleTheLength := by
  intro lo hi s fid _
  refine ⟨⟨_, _, rfl, rfl, ?_⟩, ⟨_, _, rfl, rfl, ?_⟩, ⟨_, _, rfl, rfl, ?_⟩⟩ <;>
    simp [operationOf, latchStartCshake, latchFinish, setHigh_setLow, assemble]

/-- Settles O29: each access is a plain read of 0 or a plain write of nothing. -/
theorem noEffectAccessesChangeNothing : Obligations.NoEffectAccessesChangeNothing := by
  intro v s idle
  have read : plainRead (fun _ => 0) s = .next { s with reads := s.reads ++ [0] } := plainRead_idle s _ idle
  have write : plainWrite (fun t => t) s = .next s := plainWrite_idle s _ idle
  exact ⟨read, read, read, read, write, write, write, write, write, write, write, write⟩

end Sys2Proof.Machine
end

section
/-! PROOF. Encoder and decoder are inverse to each other (spec/30_encoding.md R66 to R73, R77; 44_control.md R156): an
access decodes to `i` exactly when `i` is well-formed and encoded as that access (`decode_eq_ok_iff`). Only a command
word has fields to check: the branches of R70 are compared with the condition of R69, opcode by opcode. -/

namespace Sys2Proof

/-! The command word. -/

theorem eq_commandWord_iff (w : Word) (opc fid : BitVec 4) :
    w = commandWord opc fid ↔ rsv0Of w = 0 ∧ rsv1Of w = 0 ∧ opcOf w = opc ∧ fidOf w = fid := by
  constructor
  · rintro rfl
    exact commandWord_fields opc fid
  · rintro ⟨h0, h1, rfl, rfl⟩
    exact word_of_fields w h0 h1

theorem reservedWord_iff (w : Word) :
    reservedWord w = true ↔ opcOf w = 0 ∨ 5 ≤ (opcOf w).toNat ∨ rsv0Of w ≠ 0 ∨ rsv1Of w ≠ 0 ∨
      ((opcOf w = 1 ∨ opcOf w = 4) ∧ fidOf w ≠ 0) := by
  simp [reservedWord, opcOf, rsv0Of, rsv1Of, fidOf, BitVec.le_def, or_assoc]

/-- The rows of R67: four opcodes name an operation, the others are reserved. -/
theorem opc_cases (opc : BitVec 4) :
    ((opc = 0 ∨ 5 ≤ opc.toNat) ∧ opc ≠ 1 ∧ opc ≠ 2 ∧ opc ≠ 3 ∧ opc ≠ 4) ∨
      opc = 1 ∨ opc = 2 ∨ opc = 3 ∨ opc = 4 := by
  bv_omega

theorem decodeCommand_eq_reservedCmd_iff (w : Word) : decodeCommand w = .reservedCmd w ↔ reservedWord w = true := by
  rw [reservedWord_iff, decodeCommand]
  by_cases hrsv : rsv0Of w ≠ 0 ∨ rsv1Of w ≠ 0
  · simp only [if_pos hrsv, true_iff]
    tauto
  rw [if_neg hrsv]
  obtain ⟨h0, h1⟩ : rsv0Of w = 0 ∧ rsv1Of w = 0 := by tauto
  obtain ⟨hopc, others⟩ | hopc | hopc | hopc | hopc := opc_cases (opcOf w)
  · simp only [others, false_and, if_false, true_iff]
    tauto
  · by_cases hfid : fidOf w = 0 <;> simp_all
  · simp [hopc, h0, h1]
  · simp [hopc, h0, h1]
  · by_cases hfid : fidOf w = 0 <;> simp_all

theorem decodeCommand_start (fid : BitVec 4) : decodeCommand (commandWord 2 fid) = .start fid := by
  simp [decodeCommand, commandWord_fields]

theorem decodeCommand_startCshake (fid : BitVec 4) : decodeCommand (commandWord 3 fid) = .startCshake fid := by
  simp [decodeCommand, commandWord_fields]

/-- What a command word decodes to can be issued, by that word. -/
theorem decodeCommand_encodes_back (w : Word) :
    (decodeCommand w).wellFormed = true ∧ encode (decodeCommand w) = ofAccessCode 0x100 w := by
  by_cases hres : reservedWord w = true
  · rw [(decodeCommand_eq_reservedCmd_iff w).2 hres]
    exact ⟨hres, rfl⟩
  have hfields := (reservedWord_iff w).not.1 hres
  have hw : w = commandWord (opcOf w) (fidOf w) := word_of_fields w (by tauto) (by tauto)
  obtain hopc | hopc | hopc | hopc | hopc := opc_cases (opcOf w)
  · tauto
  · have hfid : fidOf w = 0 := by tauto
    rw [hw, hopc, hfid]
    exact ⟨rfl, rfl⟩
  · rw [hw, hopc, decodeCommand_start]
    exact ⟨rfl, rfl⟩
  · rw [hw, hopc, decodeCommand_startCshake]
    exact ⟨rfl, rfl⟩
  · have hfid : fidOf w = 0 := by tauto
    rw [hw, hopc, hfid]
    exact ⟨rfl, rfl⟩

/-! The round trips. -/

theorem decode_of_decodeAdmitted {a : Access} {i : Instr} (hw : a.width = .word) (hi : decodeAdmitted a = some i) :
    decode a = .ok i := by
  have h4 : a.off % 4 = 0 := ((decodeAdmitted_isSome_iff a).1 (by simp [hi])).1
  simp [decode, hw, h4, hi]

/-- A write of CMD comes back by its command word, every other access by its own row of R77. -/
theorem decode_encode (i : Instr) (h : i.wellFormed = true) : decode (encode i) = .ok i := by
  cases i with
  | start fid => rw [encode, decode_cmd, decodeCommand_start]
  | startCshake fid => rw [encode, decode_cmd, decodeCommand_startCshake]
  | reservedCmd w => rw [encode, decode_cmd, (decodeCommand_eq_reservedCmd_iff w).2 h]
  | _ => exact decode_of_decodeAdmitted rfl rfl

theorem encode_of_decode {a : Access} {i : Instr} (h : decode a = .ok i) : i.wellFormed = true ∧ encode i = a := by
  obtain ⟨hw, -, hi⟩ := decode_ok_admitted a i h
  cases a with
  | read width off =>
    obtain rfl : width = .word := hw
    simp only [decodeAdmitted, decodeRead] at hi
    split at hi <;> cases hi <;> exact ⟨rfl, rfl⟩
  | write width off v =>
    obtain rfl : width = .word := hw
    simp only [decodeAdmitted, decodeWrite] at hi
    split at hi <;> cases hi
    case h_1 => exact decodeCommand_encodes_back v
    all_goals exact ⟨rfl, rfl⟩

theorem decode_eq_ok_iff (a : Access) (i : Instr) : decode a = .ok i ↔ i.wellFormed = true ∧ encode i = a := by
  constructor
  · exact encode_of_decode
  · rintro ⟨hwf, rfl⟩
    exact decode_encode i hwf

/-- Settles O5: `decode_encode`, one case for each instruction. -/
theorem decodingAnEncodedInstructionGivesItBack : Obligations.DecodingAnEncodedInstructionGivesItBack := decode_encode

/-- Settles O6: `encode_of_decode`, one case for each offset the decoder answers. -/
theorem everyDecodedAccessEncodesBack : Obligations.EveryDecodedAccessEncodesBack := fun _ _ => encode_of_decode

/-- Settles O8: R70 in the terms of R69 is `decodeCommand_eq_reservedCmd_iff`, and R69 in fields `reservedWord_iff`. -/
theorem reservedCommandWordsAreThoseOfR69 : Obligations.ReservedCommandWordsAreThoseOfR69 :=
  fun w => (decodeCommand_eq_reservedCmd_iff w).trans (reservedWord_iff w)

/-- Settles O10: eight words, evaluated. -/
theorem wordsWrittenFromTheSpecDecode : Obligations.WordsWrittenFromTheSpecDecode := by
  unfold Obligations.WordsWrittenFromTheSpecDecode
  decide

end Sys2Proof
end

section
/-! PROOF. The opcode map of spec/30_encoding.md R77. A command row fixes its word, or fixes all of it but FID; the rows
follow from the round trip, since an operation is issued by one word alone. -/

namespace Sys2Proof

/-- A CMD write names `i` exactly if its word is the one `i` is issued by. -/
theorem decode_cmd_eq_ok_iff {i : Instr} {u : Word} (hwf : i.wellFormed = true) (henc : encode i = ofAccessCode 0x100 u)
    (w : Word) : decode (ofAccessCode 0x100 w) = .ok i ↔ w = u := by
  have cmd (x : Word) : ofAccessCode 0x100 x = .write .word 0x00 x := ofAccessCode_write 0x100 x rfl
  rw [decode_eq_ok_iff, henc, cmd, cmd]
  simp [hwf, eq_comm]

theorem and_fullMask (w : Word) : w &&& 0xFFFFFFFF = w := BitVec.and_allOnes

/-- The mask of the rows START and START_CSHAKE clears FID and keeps the other fields. -/
theorem and_fidMask_fields (w : Word) :
    rsv0Of (w &&& 0xFFFFF0FF) = rsv0Of w ∧ rsv1Of (w &&& 0xFFFFF0FF) = rsv1Of w ∧
    opcOf (w &&& 0xFFFFF0FF) = opcOf w ∧ fidOf (w &&& 0xFFFFF0FF) = 0 := by
  simp only [rsv0Of, rsv1Of, opcOf, fidOf, BitVec.extractLsb'_and]
  exact ⟨BitVec.and_allOnes, BitVec.and_allOnes, BitVec.and_allOnes, BitVec.and_zero⟩

theorem and_fidMask_eq_iff (w : Word) (opc : BitVec 4) :
    w &&& 0xFFFFF0FF = commandWord opc 0 ↔ rsv0Of w = 0 ∧ rsv1Of w = 0 ∧ opcOf w = opc := by
  obtain ⟨h0, h1, hopc, hfid⟩ := and_fidMask_fields w
  rw [eq_commandWord_iff, h0, h1, hopc, hfid]
  tauto

theorem eq_commandWord_iff_and_fidMask (w : Word) (opc fid : BitVec 4) :
    w = commandWord opc fid ↔ w &&& 0xFFFFF0FF = commandWord opc 0 ∧ fid = fidOf w := by
  rw [and_fidMask_eq_iff, eq_commandWord_iff]
  tauto

/-- The reserved words are those of no other row. -/
theorem reservedWord_iff_no_row (w : Word) : reservedWord w = true ↔
    w ≠ commandWord 1 0 ∧ w ≠ commandWord 4 0 ∧ w &&& 0xFFFFF0FF ≠ commandWord 2 0 ∧
      w &&& 0xFFFFF0FF ≠ commandWord 3 0 := by
  simp only [reservedWord_iff, ne_eq, and_fidMask_eq_iff]
  simp only [eq_commandWord_iff]
  obtain ⟨hopc, others⟩ | hopc | hopc | hopc | hopc := opc_cases (opcOf w)
  · tauto
  all_goals simp [hopc]; tauto

/-- Settles O9: the command rows by the word that issues each operation (`decode_cmd_eq_ok_iff`), the other access codes
by the decoder's own row. -/
theorem opcodeMapSelectsEveryOperation : Obligations.OpcodeMapSelectsEveryOperation := by
  refine ⟨fun w => ⟨?init, fun fid => ?start, fun fid => ?startCshake, ?finish, ?reserved⟩, fun v => ?registers⟩
  case init =>
    rw [decode_cmd_eq_ok_iff rfl rfl, and_fullMask]
    rfl
  case start =>
    rw [decode_cmd_eq_ok_iff rfl rfl]
    exact eq_commandWord_iff_and_fidMask w 2 fid
  case startCshake =>
    rw [decode_cmd_eq_ok_iff rfl rfl]
    exact eq_commandWord_iff_and_fidMask w 3 fid
  case finish =>
    rw [decode_cmd_eq_ok_iff rfl rfl, and_fullMask]
    rfl
  case reserved =>
    rw [decode_cmd, Except.ok.injEq, decodeCommand_eq_reservedCmd_iff]
    exact reservedWord_iff_no_row w
  case registers => and_intros <;> exact decode_of_decodeAdmitted rfl rfl

end Sys2Proof
end

section
/-! PROOF. The poll loop WAITIDLE (spec/30_encoding.md R76): each turn of the loop is one STATUS read, which BUSY does
not hold (44_control.md R142). -/

namespace Sys2Proof.Machine

variable {s : State} {e : Event} {rest : List Event}

/-- At BUSY = 1, in the host's turn, a step is the host's next event if BUSY does not hold it. -/
theorem step_busy_neverHeld (busy : s.busy = true) (hturn : hostFirst s = true) (hhost : s.host = e :: rest)
    (hnever : neverHeld e = true) : step s = hostStep e (s.takeTurn.withHost rest) := by
  simp [step, machineStep, busy, hturn, hhost, hnever]

theorem hostStep_waitIdle_idle (idle : s.busy = false) :
    hostStep .waitIdle s = .next (s.returnData (statusWord s)) := by
  simp [hostStep, idle, exec, execRdStatus]

theorem hostStep_waitIdle_busy (busy : s.busy = true) :
    hostStep .waitIdle s = .next ((s.withHost (.waitIdle :: s.host)).returnData (statusWord s)) := by
  simp only [hostStep, busy, if_true]
  rfl

/-- Settles O15: the poll is the host's event in both cases, and it stays the next event while BUSY is 1. -/
theorem waitIdlePollsUntilBusyIsZero : Obligations.WaitIdlePollsUntilBusyIsZero := by
  refine fun s rest hhost => ⟨fun idle => ?_, fun ts busy hturns => ?_⟩
  · rw [step_idle idle hhost, hostStep_waitIdle_idle (s := s.withHost rest) idle]
    rfl
  · have hts : ts = s.turns.tail := by rw [hturns, List.tail_cons]
    rw [step_busy_neverHeld busy (by simp [hostFirst, hturns]) hhost rfl,
      hostStep_waitIdle_busy (s := s.takeTurn.withHost rest) busy, State.withHost_host, ← hhost, hts]
    rfl

end Sys2Proof.Machine
end

section
/-! PROOF. The permutation Keccak-f[1600] (spec/40_permutation.md): the lanes each stage leaves (R81 to R85), the
24 rounds (R89, R92), and the tables against their constructions (R87, R88). -/

namespace Sys2Proof.Machine

/-! The lanes of each stage. -/

/-- rotl64 moves bit z to bit (z + n) mod 64 (spec/00_scope.md R10), for a count of any size. -/
theorem rotl64_getLsbD (v : Long) (n : Nat) {z : Nat} (hz : z < 64) :
    (rotl64 v n).getLsbD ((z + n) % 64) = v.getLsbD z := by
  rw [rotl64, BitVec.getLsbD_rotateLeft]
  by_cases hwrap : (z + n) % 64 < n % 64
  · have hback : 64 - n % 64 + (z + n) % 64 = z := by omega
    rw [decide_eq_true hwrap, hback, cond_true]
  · have hback : (z + n) % 64 - n % 64 = z := by omega
    rw [decide_eq_false hwrap, hback, cond_false, decide_eq_true (Nat.mod_lt _ (by decide)), Bool.true_and]

@[simp] theorem rotl64_zero (n : Nat) : rotl64 0#64 n = 0#64 := by
  simp [rotl64, BitVec.rotateLeft_def]

section Stages

variable (A : Lanes) (x y : Fin 5)

theorem lane_theta :
    (theta A).lane x y = A.lane x y ^^^ (columnParity A (x - 1) ^^^ rotl64 (columnParity A (x + 1)) 1) := by
  simp [theta]

theorem lane_rho : (rho A).lane x y = rotl64 (A.lane x y) (rhoOffset x y) := by
  rw [rho, lane_build]

theorem lane_pi : (pi A).lane x y = A.lane (x + 3 * y) x := by
  rw [pi, lane_build]

theorem lane_chi : (chi A).lane x y = A.lane x y ^^^ (~~~ A.lane (x + 1) y &&& A.lane (x + 2) y) := by
  rw [chi, lane_build]

/-- The parity of a column as one ⊕ over its rows. -/
theorem columnParity_eq_foldl : columnParity A x = (List.finRange 5).foldl (fun c r => c ^^^ A.lane x r) 0 := by
  simp [columnParity, List.finRange_succ]

/-- The move of π has the inverse that `pi` is written by: y + 3·(2x + 3y) is x mod 5. -/
theorem pi_source : y + 3 * (2 * x + 3 * y) = x := by omega

theorem theta_of_zero_parities (hzero : ∀ u, columnParity A u = 0) : theta A = A :=
  lanes_ext fun x y => by simp [lane_theta, hzero]

end Stages

/-- Settles O54: each stage by the lemma on its lanes; ρ turns on `rotl64_getLsbD`, π on `pi_source`. -/
theorem stagesComputeTheirLanes : Obligations.StagesComputeTheirLanes := by
  refine fun A x y => ⟨?theta, fun z hz => ?rho, ?pi, lane_chi A x y, fun i => lane_iota A i x y,
    theta_of_zero_parities A⟩
  case theta => rw [lane_theta, columnParity_eq_foldl, columnParity_eq_foldl]
  case rho => rw [lane_rho, rotl64_getLsbD _ _ hz]
  case pi => rw [lane_pi, pi_source]

/-! The rounds. -/

/-- A sequence that starts at A and makes one round a place has, at place n, what the first n rounds make of A. -/
theorem rounds_eq_foldl {f : Nat → Lanes} {n : Nat} (hstep : ∀ i < n, f (i + 1) = keccakRound (f i) i) :
    f n = (List.range n).foldl keccakRound (f 0) := by
  induction n with
  | zero => rfl
  | succ n ih =>
    rw [List.range_succ, List.foldl_concat, ← ih fun i hi => hstep i (by omega), hstep n (by omega)]

/-- Settles O55: the stages in their order are `keccakRound`, and KeccakF is the first 24 rounds. -/
theorem keccakFIsTheTwentyFourRounds : Obligations.KeccakFIsTheTwentyFourRounds := by
  intro A f hstart hstep
  rw [rounds_eq_foldl hstep, hstart, keccakF]

/-! The tables. -/

/-- The walk of R87 meets the table at each of its 24 positions. -/
theorem rhoWalk_offsets : ∀ p ∈ rhoWalk 24 0 1 0, rhoOffset p.1.1 p.1.2 = p.2 := by decide

/-- The walk of R87 visits 24 positions, none of them twice and none of them (0, 0). -/
theorem rhoWalk_visits_once : ((0, 0) :: (rhoWalk 24 0 1 0).map Prod.fst).Nodup := by decide

/-- Bit 2^j - 1 of each round constant is the bit of the LFSR that R88 gives it. -/
theorem roundConstant_lfsrBit : ∀ i < 24, ∀ j < 7,
    (roundConstant i).getLsbD (2 ^ j - 1) = lfsrBit (j + 7 * i) := by decide

/-- The bits of the round constants at no place 2^j - 1 are 0. -/
theorem roundConstant_other_bits : ∀ i < 24, ∀ z < 64, z ∉ [0, 1, 3, 7, 15, 31, 63] →
    (roundConstant i).getLsbD z = false := by decide

/-- Settles O56: both tables are finite, so each clause is an evaluation of the construction beside its table. -/
theorem tablesFollowTheirConstructions : Obligations.TablesFollowTheirConstructions :=
  ⟨rfl, rhoWalk_offsets, rhoWalk_visits_once, roundConstant_lfsrBit, roundConstant_other_bits⟩

end Sys2Proof.Machine
end

section
/-! PROOF. START, START_CSHAKE, ABSORB, FINISH and SQUEEZE as whole accesses at BUSY = 0 (spec/42_sponge.md R107 to
R116): for each branch of an operation, the state that the access leaves. -/

namespace Sys2Proof.Machine

/-! An operation as a whole access. -/

section Whole

variable {s : State} {i : Instr} {op : Op} {c : Context}

theorem exec_success (idle : s.busy = false) (ho : operationOf i s = some op) (hinit : op ≠ .init)
    (hsqueeze : op ≠ .squeeze) (h : perform op s.ctx = succeed c) : exec i s = .next (s.afterSuccess c) := by
  rw [exec_operation s op i idle ho, complete_issue_success s op c hinit hsqueeze h]

theorem exec_error (idle : s.busy = false) (ho : operationOf i s = some op) (hsqueeze : op ≠ .squeeze)
    (h : perform op s.ctx = raiseBadInput c) : exec i s = .next (s.afterError c) := by
  rw [exec_operation s op i idle ho, complete_issue_error s op c hsqueeze h]

end Whole

/-! START and START_CSHAKE. -/

section Start

variable {s : State} {fid : BitVec 4} {row : FamilyRow}

theorem performStart_row (h : lookupFamily fid = some row) : performStart fid = succeed (beginSession fid row) := by
  simp [performStart, h]

theorem performStart_unknown (h : lookupFamily fid = none) : performStart fid = raiseBadInput Context.zero := by
  simp [performStart, h, clearContext]

theorem exec_start_row (idle : s.busy = false) (h : lookupFamily fid = some row) :
    exec (.start fid) s = .next (s.afterSuccess (beginSession fid row)) :=
  exec_success (op := .start fid) idle rfl nofun nofun (performStart_row h)

theorem exec_start_unknown (idle : s.busy = false) (h : lookupFamily fid = none) :
    exec (.start fid) s = .next (s.afterError Context.zero) :=
  exec_error (op := .start fid) idle rfl nofun (performStart_unknown h)

/-- What START_CSHAKE sets beside the family's row is in the row already (spec/41_family_table.md R100). -/
theorem lookupFamily_cshake_row (hf : isCshake fid = true) (h : lookupFamily fid = some row) :
    { row with dlen := 0, suffix := 0x1F } = row := by
  have all : ∀ fid, isCshake fid = true → ∀ row ∈ lookupFamily fid, { row with dlen := 0, suffix := 0x1F } = row := by
    decide
  exact all fid hf row h

/-- START_CSHAKE with legal lengths (spec/43_cshake.md R129). -/
theorem performStartCshake_legal {nlen slen : Long} (hf : isCshake fid = true) (h : lookupFamily fid = some row)
    (hn : nlen.toNat < 2 ^ 61) (hs : slen.toNat < 2 ^ 61) :
    performStartCshake fid nlen slen = succeed
      (if nlen = 0 ∧ slen = 0 then beginSession fid row else beginPreamble (beginSession fid row) nlen slen) := by
  have legal : ¬ (isCshake fid = false ∨ 2 ^ 61 ≤ nlen.toNat ∨ 2 ^ 61 ≤ slen.toNat) :=
    not_or.2 ⟨by simp [hf], by omega⟩
  rw [performStartCshake, if_neg legal]
  simp only [h, lookupFamily_cshake_row hf h]
  split <;> rfl

theorem exec_startCshake_legal (idle : s.busy = false) (hf : isCshake fid = true) (h : lookupFamily fid = some row)
    (hn : s.nlen.toNat < 2 ^ 61) (hs : s.slen.toNat < 2 ^ 61) :
    exec (.startCshake fid) s = .next (s.afterSuccess (if s.nlen = 0 ∧ s.slen = 0 then beginSession fid row
      else beginPreamble (beginSession fid row) s.nlen s.slen)) :=
  exec_success (op := .startCshake fid s.nlen s.slen) idle rfl nofun nofun (performStartCshake_legal hf h hn hs)

/-- The rows of R100 are those that Lookup answers. -/
theorem lookupFamily_of_mem {rate dlen : BitVec 8} {suffix : Byte} (h : (fid, rate, dlen, suffix) ∈ familyRows) :
    lookupFamily fid = some ⟨rate, dlen, suffix⟩ := by
  have all : ∀ r ∈ familyRows, lookupFamily r.1 = some ⟨r.2.1, r.2.2.1, r.2.2.2⟩ := by
    simp [familyRows, lookupFamily]
  exact all _ h

/-- The FIDs that name no family (R101). -/
theorem lookupFamily_unknown (h : fid = 0 ∨ 9 ≤ fid.toNat) : lookupFamily fid = none := by
  have all : ∀ fid : BitVec 4, fid = 0 ∨ 9 ≤ fid.toNat → lookupFamily fid = none := by decide
  exact all fid h

end Start

/-- Settles O31: the rows of the table and the FIDs outside it are the two branches of START. -/
theorem startBeginsASessionOrClears : Obligations.StartBeginsASessionOrClears :=
  fun _ idle => ⟨fun _ _ _ _ hmem => exec_start_row idle (lookupFamily_of_mem hmem),
    fun _ hfid => exec_start_unknown idle (lookupFamily_unknown hfid)⟩

/-- Settles O32: what START leaves does not depend on the context it finds, and BUSY = 1 is waited for first. -/
theorem startTwiceIsStartOnce : Obligations.StartTwiceIsStartOnce := by
  intro fid s
  have hwait : exec (.start fid) s = exec (.start fid) (settle s) := by
    simp [exec, execStart, operate, settle_idle (settle s)]
  rw [hwait]
  cases h : lookupFamily fid with
  | none => exact ⟨_, exec_start_unknown (by simp) h, exec_start_unknown (by simp) h⟩
  | some row => exact ⟨_, exec_start_row (by simp) h, exec_start_row (by simp) h⟩

/-- Settles O33: the two families have equal rows, and START_CSHAKE with both lengths 0 begins the session that START
begins. -/
theorem cshakeWithoutStringsIsShake : Obligations.CshakeWithoutStringsIsShake := by
  intro s shake cshake hpair idle
  obtain ⟨row, hshake, hcshake, hf⟩ :
      ∃ row, lookupFamily shake = some row ∧ lookupFamily cshake = some row ∧ isCshake cshake = true := by
    obtain ⟨rfl, rfl⟩ | ⟨rfl, rfl⟩ : (shake = 5 ∧ cshake = 7) ∨ (shake = 6 ∧ cshake = 8) := by simpa using hpair
    · exact ⟨_, rfl, rfl, rfl⟩
    · exact ⟨_, rfl, rfl, rfl⟩
  refine ⟨_, exec_start_row idle hshake, exec_start_row idle hcshake, fun hn hs => ?_⟩
  rw [exec_startCshake_legal idle hf hcshake (by simp [hn]) (by simp [hs]), if_pos ⟨hn, hs⟩]
  rfl

/-! ABSORB. -/

section Absorb

variable {s : State} (v : Word)

theorem exec_absorb_absorbing (idle : s.busy = false) (hp : s.ctx.phase = .absorbing) :
    exec (.absorb v) s = .next (s.afterSuccess (absorbByte (dinByte v) s.ctx)) :=
  exec_success (op := .absorb (dinByte v)) idle rfl nofun nofun (by simp [perform, performAbsorb, hp])

theorem exec_absorb_preamble (idle : s.busy = false) (hp : s.ctx.phase = .preN ∨ s.ctx.phase = .preS) :
    exec (.absorb v) s = .next (s.afterSuccess (preambleByte (dinByte v) s.ctx)) :=
  exec_success (op := .absorb (dinByte v)) idle rfl nofun nofun
    (by rcases hp with hp | hp <;> simp [perform, performAbsorb, hp])

theorem exec_absorb_fails (idle : s.busy = false)
    (hp : s.ctx.phase = .initial ∨ s.ctx.phase = .squeezing ∨ s.ctx.phase = .finalized) :
    exec (.absorb v) s = .next (s.afterError s.ctx) :=
  exec_error (op := .absorb (dinByte v)) idle rfl nofun
    (by rcases hp with hp | hp | hp <;> simp [perform, performAbsorb, hp])

end Absorb

/-- Settles O34: one lemma for each branch of ABSORB, and the two branches of `absorbByte`. -/
theorem absorbTakesOneByte : Obligations.AbsorbTakesOneByte := by
  refine fun v s idle => ⟨fun hp hinside => ?inside, fun hp hedge => ?edge, exec_absorb_preamble v idle,
    exec_absorb_fails v idle⟩
  case inside => rw [exec_absorb_absorbing v idle hp, absorbByte_eq, if_neg hinside]; rfl
  case edge => rw [exec_absorb_absorbing v idle hp, absorbByte_eq, if_pos hedge]; rfl

/-! FINISH. -/

/-- The context of a FINISH that succeeds: padded, permuted, the output armed (R112). -/
def finishContext (olen : Long) (c : Context) : Context :=
  { permute (injectPadding c) with
    index := 0, rem := olen, phase := if olen = 0 then .finalized else .squeezing }

section Finish

variable {s : State}

theorem exec_finish_initial (idle : s.busy = false) (hp : s.ctx.phase = .initial) :
    exec .finish s = .next (s.afterError s.ctx) :=
  exec_error (op := .finish s.olen) idle rfl nofun (by simp [perform, performFinish, hp])

theorem exec_finish_otherPhase (idle : s.busy = false) (hp : s.ctx.phase ≠ .initial) (hp' : s.ctx.phase ≠ .absorbing) :
    exec .finish s = .next (s.afterError { s.ctx with phase := .finalized, rem := 0, lslen := 0 }) :=
  exec_error (op := .finish s.olen) idle rfl nofun (by simp [perform, performFinish, hp, hp'])

theorem exec_finish_illegal (idle : s.busy = false) (hp : s.ctx.phase = .absorbing) (hd : s.ctx.dlen ≠ 0)
    (hl : s.olen ≠ s.ctx.dlen.setWidth 64) :
    exec .finish s = .next (s.afterError { s.ctx with phase := .finalized, rem := 0 }) :=
  exec_error (op := .finish s.olen) idle rfl nofun
    (by rw [perform, performFinish, if_neg (by simp [hp]), if_neg (by simp [hp]), if_pos ⟨hd, hl⟩])

theorem exec_finish_legal (idle : s.busy = false) (hp : s.ctx.phase = .absorbing)
    (hl : s.ctx.dlen = 0 ∨ s.olen = s.ctx.dlen.setWidth 64) :
    exec .finish s = .next (s.afterSuccess (finishContext s.olen s.ctx)) := by
  have hlegal : ¬ (s.ctx.dlen ≠ 0 ∧ s.olen ≠ s.ctx.dlen.setWidth 64) := by tauto
  refine exec_success (op := .finish s.olen) idle rfl nofun nofun ?_
  rw [perform, performFinish, if_neg (by simp [hp]), if_neg (by simp [hp]), if_neg hlegal]
  rfl

end Finish

/-- Settles O35: one lemma for each branch of FINISH. -/
theorem finishPadsOrFails : Obligations.FinishPadsOrFails :=
  fun _ idle => ⟨exec_finish_initial idle, exec_finish_otherPhase idle, exec_finish_illegal idle,
    exec_finish_legal idle⟩

/-- The digest length of each family (spec/41_family_table.md R100). -/
theorem Context.InSession.dlen_cases {c : Context} (h : c.InSession) :
    (c.fid = 1 ∧ c.dlen = 28) ∨ (c.fid = 2 ∧ c.dlen = 32) ∨ (c.fid = 3 ∧ c.dlen = 48) ∨ (c.fid = 4 ∧ c.dlen = 64) ∨
      (isXof c.fid = true ∧ c.dlen = 0) := by
  have all : ∀ fid, ∀ row ∈ lookupFamily fid, (fid = 1 ∧ row.dlen = 28) ∨ (fid = 2 ∧ row.dlen = 32) ∨
      (fid = 3 ∧ row.dlen = 48) ∨ (fid = 4 ∧ row.dlen = 64) ∨ (isXof fid = true ∧ row.dlen = 0) := by decide
  obtain ⟨row, hrow, hparams⟩ := Option.map_eq_some_iff.1 h.1
  obtain ⟨-, hdlen⟩ := Prod.mk.inj hparams
  rw [← hdlen]
  exact all c.fid row hrow

/-- An XOF FID is none of the SHA3 ones (R103). -/
theorem isXof_ne {fid : BitVec 4} (h : isXof fid = true) : fid ≠ 1 ∧ fid ≠ 2 ∧ fid ≠ 3 ∧ fid ≠ 4 := by
  have all : ∀ fid, isXof fid = true → fid ≠ 1 ∧ fid ≠ 2 ∧ fid ≠ 3 ∧ fid ≠ 4 := by decide
  exact all fid h

/-- A SHA3 FID is no XOF (R103). -/
theorem isXof_of_isSha3 {fid : BitVec 4} (h : isSha3 fid = true) : isXof fid = false := by
  have all : ∀ fid, isSha3 fid = true → isXof fid = false := by decide
  exact all fid h

/-- The XOF families are those with no digest length. -/
theorem Context.InSession.dlen_eq_zero_iff {c : Context} (h : c.InSession) : c.dlen = 0 ↔ isXof c.fid = true := by
  obtain ⟨hf, hd⟩ | ⟨hf, hd⟩ | ⟨hf, hd⟩ | ⟨hf, hd⟩ | ⟨hf, hd⟩ := h.dlen_cases
  case inr.inr.inr.inr => simp [hf, hd]
  all_goals simp [hf, hd, isXof]

/-- OLEN is legal exactly if it is the digest length of a SHA3 family, or the family is an XOF (R114). -/
theorem Context.InSession.legal_iff {c : Context} (h : c.InSession) (olen : Long) :
    c.dlen = 0 ∨ olen = c.dlen.setWidth 64 ↔
      (c.fid = 1 → olen = 28) ∧ (c.fid = 2 → olen = 32) ∧ (c.fid = 3 → olen = 48) ∧ (c.fid = 4 → olen = 64) := by
  obtain ⟨hf, hd⟩ | ⟨hf, hd⟩ | ⟨hf, hd⟩ | ⟨hf, hd⟩ | ⟨hf, hd⟩ := h.dlen_cases
  case inr.inr.inr.inr => 
    obtain ⟨h1, h2, h3, h4⟩ := isXof_ne hf
    simp only [hd, h1, h2, h3, h4, true_or, false_imp_iff, and_self]
  all_goals simp [hf, hd]

/-- Settles O36: FINISH succeeds exactly if OLEN is legal, and `legal_iff` says when that is. -/
theorem finishSucceedsExactlyForLegalLengths : Obligations.FinishSucceedsExactlyForLegalLengths := by
  intro s idle hinv hp
  rw [← (hinv.inSession (by simp [hp])).legal_iff]
  by_cases hl : s.ctx.dlen = 0 ∨ s.olen = s.ctx.dlen.setWidth 64
  · exact ⟨_, exec_finish_legal idle hp hl, by simpa using hl⟩
  · have ⟨hd, ho⟩ := not_or.1 hl
    exact ⟨_, exec_finish_illegal idle hp hd ho, by simpa using hl⟩

/-! SQUEEZE. -/

section Squeeze

variable {s : State}

theorem exec_squeeze_fails (idle : s.busy = false) (hp : s.ctx.phase ≠ .squeezing) :
    exec .squeeze s = .next { s.afterError s.ctx with reads := s.reads ++ [0] } := by
  rw [exec_operation s .squeeze .squeeze idle rfl, complete_issue]
  simp [perform, performSqueeze, doutWord, hp, raiseBadInput, State.afterError]

theorem exec_squeeze_squeezing (idle : s.busy = false) (hp : s.ctx.phase = .squeezing) :
    exec .squeeze s = .next { s.afterSuccess (advanceOutput s.ctx) with
      reads := s.reads ++ [(s.ctx.lanes.byteAt s.ctx.index.toNat).setWidth 32] } := by
  rw [exec_operation s .squeeze .squeeze idle rfl, complete_issue]
  simp [perform, performSqueeze, doutWord, hp, succeed, State.afterSuccess]

end Squeeze

/-- Settles O37: one lemma for each branch of SQUEEZE, and the branches of `advanceOutput_eq`. -/
theorem squeezeReturnsTheNextByte : Obligations.SqueezeReturnsTheNextByte := by
  refine fun s idle => ⟨exec_squeeze_fails idle, fun hp => ⟨_, exec_squeeze_squeezing idle hp,
    fun hinside => ?inside, fun hedge hmore => ?edge, fun hedge hlast => ?last⟩⟩
  case inside => simp only [advanceOutput_eq, hinside, hp, false_and, if_false]
  case edge => simp only [advanceOutput_eq, hedge, hmore, ne_eq, not_false_eq_true, and_self, if_true, if_false]
  case last => simp only [advanceOutput_eq, hedge, hlast, ne_eq, not_true, and_false, if_true, if_false]

end Sys2Proof.Machine
end

section
/-! PROOF. The padding in the byte view (spec/42_sponge.md R112, R113), and pad_to_boundary as zero bytes absorbed
(R106). -/

namespace Sys2Proof.Machine

/-! The padding. -/

/-- The state before KeccakF, byte by byte: Sb[RATE-1] takes 0x80 after Sb[INDEX] has taken SUFFIX. -/
theorem byteAt_injectPadding (c : Context) {j : Nat} (hj : j < 200) :
    (injectPadding c).lanes.byteAt j =
      if j = c.rate.toNat - 1 then
        (if j = c.index.toNat then c.lanes.byteAt j ^^^ c.suffix else c.lanes.byteAt j) ^^^ 0x80
      else if j = c.index.toNat then c.lanes.byteAt j ^^^ c.suffix else c.lanes.byteAt j := by
  rw [injectPadding, byteAt_xorByte _ _ hj, byteAt_xorByte _ _ hj]

/-- Settles O38: `byteAt_injectPadding` where the two bytes are one, and where they are two. -/
theorem paddingBytesMeetInTheLastByte : Obligations.PaddingBytesMeetInTheLastByte := by
  refine fun s idle _ hp hl => ⟨_, (injectPadding s.ctx).lanes, exec_finish_legal idle hp hl, rfl,
    fun hmeet j hj => ?meet, fun hapart j hj => ?apart⟩
  case meet =>
    rw [byteAt_injectPadding _ hj, ← hmeet]
    by_cases h : j = s.ctx.index.toNat
    · simp only [if_pos h, BitVec.xor_assoc]
    · simp only [if_neg h]
  case apart =>
    rw [byteAt_injectPadding _ hj]
    by_cases h : j = s.ctx.index.toNat
    · rw [if_neg (by omega), if_pos h, if_pos h]
    · simp only [if_neg h]

/-! pad_to_boundary. -/

theorem setByte_byteAt_self (A : Lanes) (j : Nat) : A.setByte j (A.byteAt j) = A := by
  refine lanes_eq_of_byteAt fun k hk => ?_
  rw [byteAt_setByte A _ hk]
  by_cases h : k = j
  · rw [if_pos h, h]
  · rw [if_neg h]

@[simp] theorem xorByte_zero (A : Lanes) (j : Nat) : A.xorByte j 0#8 = A := by
  rw [Lanes.xorByte, BitVec.xor_zero, setByte_byteAt_self]

/-- n more than 0 zero bytes that end at the rate boundary change S by one KeccakF. -/
theorem absorbBytes_zeros_to_boundary (n : Nat) : ∀ c : Context, c.index.toNat + (n + 1) = c.rate.toNat →
    absorbBytes (List.replicate (n + 1) 0) c = { permute c with index := 0 } := by
  induction n with
  | zero =>
    intro c h
    have hedge : c.index + 1 = c.rate := by bv_omega
    rw [List.replicate_one, absorbBytes_cons, absorbBytes_nil, absorbByte_eq, if_pos hedge]
    simp [permute]
  | succ n ih =>
    intro c h
    have hinside : c.index + 1 ≠ c.rate := by bv_omega
    have hindex : (c.index + 1).toNat = c.index.toNat + 1 := by bv_omega
    have hstep : absorbByte 0 c = { c with index := c.index + 1 } := by
      rw [absorbByte_eq, if_neg hinside]
      simp
    rw [List.replicate_succ, absorbBytes_cons, hstep, ih { c with index := c.index + 1 } (by simp only [hindex]; omega)]
    rfl

/-- Settles O41: the zero bytes reach the boundary and no further (`absorbBytes_zeros_to_boundary`). -/
theorem padToBoundaryAbsorbsZeroBytes : Obligations.PadToBoundaryAbsorbsZeroBytes := by
  refine fun c hindex => ⟨fun h0 => ?none, fun h0 => ?some⟩
  case none => simp [padToBoundary, h0]
  case some =>
    obtain ⟨n, hn⟩ : ∃ n, c.rate.toNat - c.index.toNat = n + 1 := ⟨c.rate.toNat - c.index.toNat - 1, by omega⟩
    rw [hn, absorbBytes_zeros_to_boundary n c (by omega), padToBoundary, if_pos h0]

end Sys2Proof.Machine
end

section
/-! PROOF. The output of a session (spec/42_sponge.md R115 to R119): the byte that the n-th SQUEEZE returns, in closed
form, and the end of the output. -/

namespace Sys2Proof.Machine

/-! The closed form. -/

/-- Byte n of the output whose first window is the first r bytes of P: Y[n] of R119. -/
def windowByte (r : Nat) (P : Lanes) (n : Nat) : Byte := (keccakIterate (n / r) P).byteAt (n % r)

theorem keccakIterate_succ' (j : Nat) (P : Lanes) : keccakIterate (j + 1) P = keccakIterate j (keccakF P) := by
  induction j with
  | zero => rfl
  | succ j ih => rw [keccakIterate, ih, keccakIterate]

/-- Inside the first window the output is S itself. -/
theorem windowByte_inside {r n : Nat} (P : Lanes) (h : n < r) : windowByte r P n = P.byteAt n := by
  rw [windowByte, Nat.div_eq_of_lt h, Nat.mod_eq_of_lt h, keccakIterate]

/-- From the second window on the output is that of KeccakF of S. -/
theorem windowByte_rate_add {r : Nat} (P : Lanes) (n : Nat) (hr : 0 < r) :
    windowByte r P (r + n) = windowByte r (keccakF P) n := by
  rw [windowByte, Nat.add_div_left n hr, Nat.add_mod_left, keccakIterate_succ', windowByte]

/-! The engine's output. -/

/-- The context after FINISH and after each SQUEEZE: INDEX is inside the window, PHASE says whether output is owed. -/
def Context.OutputPhase (c : Context) : Prop :=
  c.index < c.rate ∧ c.phase = if c.rem = 0 then .finalized else .squeezing

/-- The n-th byte that SQUEEZE will return from here on. -/
def Context.outputByte (c : Context) (n : Nat) : Byte := windowByte c.rate.toNat c.lanes (c.index.toNat + n)

section Output

variable {c : Context}

theorem Context.OutputPhase.outputByte_zero (h : c.OutputPhase) :
    c.outputByte 0 = c.lanes.byteAt c.index.toNat := windowByte_inside _ h.1

theorem Context.OutputPhase.advance (h : c.OutputPhase) (hrem : c.rem ≠ 0) : (advanceOutput c).OutputPhase := by
  obtain ⟨hindex, hphase⟩ := h
  rw [if_neg hrem] at hphase
  rw [Context.OutputPhase, advanceOutput_eq]
  refine ⟨?_, by simp only [hphase]⟩
  dsimp only
  split <;> bv_omega

/-- As long as output is owed, SQUEEZE moves the output on by one byte. -/
theorem Context.OutputPhase.outputByte_advance (h : c.OutputPhase) (hmore : c.rem - 1 ≠ 0) (n : Nat) :
    (advanceOutput c).outputByte n = c.outputByte (n + 1) := by
  obtain ⟨hindex, -⟩ := h
  rw [Context.outputByte, Context.outputByte, advanceOutput_eq]
  by_cases hedge : c.index + 1 = c.rate
  · have hlast : c.index.toNat + (n + 1) = c.rate.toNat + n := by bv_omega
    rw [hlast, windowByte_rate_add _ _ (by bv_omega)]
    simp only [hedge, hmore, ne_eq, not_false_eq_true, and_self, if_true]
    simp
  · have hnext : (c.index + 1).toNat = c.index.toNat + 1 := by bv_omega
    simp only [hedge, false_and, if_false, hnext]
    congr 1
    omega

end Output

/-- n SQUEEZEs with n bytes owed return the next n bytes, and leave the output n bytes on. -/
theorem execAll_squeeze (n : Nat) : ∀ s : State, s.busy = false → s.ctx.OutputPhase → n ≤ s.ctx.rem.toNat →
    ∃ t, execAll (List.replicate n .squeeze) s = .next t ∧ t.busy = false ∧ t.ctx.OutputPhase ∧
      t.ctx.rem.toNat = s.ctx.rem.toNat - n ∧ t.lastErr = (decide (n = 0) && s.lastErr) ∧ t.stickyErr = s.stickyErr ∧
      t.reads = s.reads ++ (List.range n).map fun k => (s.ctx.outputByte k).setWidth 32 := by
  induction n with
  | zero => exact fun s idle hout _ => ⟨s, rfl, idle, hout, rfl, by simp, rfl, by simp⟩
  | succ n ih =>
    intro s idle hout hn
    have hrem : s.ctx.rem ≠ 0 := by bv_omega
    have hdown : (s.ctx.rem - 1).toNat = s.ctx.rem.toNat - 1 := by bv_omega
    have hsq := exec_squeeze_squeezing idle (hout.2.trans (if_neg hrem))
    have hnext : ∀ k < n, (advanceOutput s.ctx).outputByte k = s.ctx.outputByte (k + 1) :=
      fun k hk => hout.outputByte_advance (by bv_omega) k
    obtain ⟨t, ht, idle', hout', hrem', hlast, hsticky, hreads⟩ := ih
      { s.afterSuccess (advanceOutput s.ctx) with
        reads := s.reads ++ [(s.ctx.lanes.byteAt s.ctx.index.toNat).setWidth 32] }
      rfl (hout.advance hrem) (by simp only [State.afterSuccess_ctx, advanceOutput_rem, hdown]; omega)
    simp only [State.afterSuccess_ctx, advanceOutput_rem, hdown] at hrem'
    refine ⟨t, by rw [List.replicate_succ, execAll, hsq]; exact ht, idle', hout', by omega, by simpa using hlast,
      hsticky, ?_⟩
    rw [hreads, List.range_succ_eq_map, List.map_cons, List.map_map, hout.outputByte_zero]
    simpa using fun k hk => by rw [hnext k hk]

/-- Settles O45: `execAll_squeeze`, with the bytes in the closed form of R119 since INDEX is 0; after REM bytes the
phase is FINALIZED. -/
theorem outputIsTheWindowsOfIteratedKeccakF : Obligations.OutputIsTheWindowsOfIteratedKeccakF := by
  intro s n idle hinv hp hindex hn
  obtain ⟨hsession, hrem, -⟩ := (Context.inv_iff_squeezing hp).1 hinv
  obtain ⟨t, ht, idle', ⟨-, hphase⟩, hrem', hlast, -, hreads⟩ :=
    execAll_squeeze n s idle ⟨hsession.2, by rw [if_neg hrem, hp]⟩ hn
  refine ⟨t, ht, fun hpos => ?status, ?bytes, fun hall => ?finish⟩
  case status => simp [hlast, hpos.ne']
  case bytes => simpa [Context.outputByte, windowByte, hindex] using hreads
  case finish =>
    have hzero : t.ctx.rem = 0 := by bv_omega
    rw [if_pos hzero] at hphase
    exact ⟨hphase, exec_squeeze_fails idle' (by simp [hphase])⟩

/-- Settles O46: an XOF has no digest length, so FINISH succeeds and leaves FINALIZED, where SQUEEZE fails; a SHA3
digest length is not 0, so FINISH fails. -/
theorem emptyOutputEndsTheSession : Obligations.EmptyOutputEndsTheSession := by
  intro s idle hinv hp holen
  have hdlen := (hinv.inSession (by simp [hp])).dlen_eq_zero_iff
  refine ⟨fun hxof => ?xof, fun hsha => ?sha3⟩
  case xof =>
    have hfinal : (finishContext s.olen s.ctx).phase = .finalized := if_pos holen
    exact ⟨_, exec_finish_legal idle hp (.inl (hdlen.2 hxof)), rfl, hfinal, rfl, holen, rfl,
      exec_squeeze_fails rfl (by simp [hfinal])⟩
  case sha3 =>
    have hd : s.ctx.dlen ≠ 0 := hdlen.not.2 (by simp [isXof_of_isSha3 hsha])
    exact exec_finish_illegal idle hp hd (by bv_omega)

end Sys2Proof.Machine
end

section
/-! PROOF. Runs of ABSORBs (spec/42_sponge.md R111), and a session from its message to its last output byte (R112 to
R119). -/

namespace Sys2Proof.Machine

/-! Instructions one after the other. -/

section Lists

variable {s t : State} {i : Instr} {is : List Instr}

theorem execAll_cons (h : exec i s = .next t) : execAll (i :: is) s = execAll is t := by
  rw [execAll, h]

theorem execAll_append (js : List Instr) (h : execAll is s = .next t) : execAll (is ++ js) s = execAll js t := by
  induction is generalizing s with
  | nil => cases h; rfl
  | cons i is ih =>
    obtain ⟨u, hu, -⟩ := exec_next_effect i s
    rw [execAll_cons hu] at h
    rw [List.cons_append, execAll_cons hu, ih h]

end Lists

/-! The message. -/

/-- The state after the ABSORBs of a message; with none of them no status has been written. -/
def State.afterAbsorbs (s : State) : List Word → State
  | [] => s
  | v :: M => s.afterSuccess (absorbBytes ((v :: M).map dinByte) s.ctx)

section Message

variable (s : State) (M : List Word)

@[simp] theorem State.afterAbsorbs_ctx : (s.afterAbsorbs M).ctx = absorbBytes (M.map dinByte) s.ctx := by
  cases M <;> rfl
@[simp] theorem State.afterAbsorbs_olen : (s.afterAbsorbs M).olen = s.olen := by cases M <;> rfl
@[simp] theorem State.afterAbsorbs_stickyErr : (s.afterAbsorbs M).stickyErr = s.stickyErr := by cases M <;> rfl
@[simp] theorem State.afterAbsorbs_reads : (s.afterAbsorbs M).reads = s.reads := by cases M <;> rfl

theorem State.afterAbsorbs_busy {s : State} (idle : s.busy = false) : (s.afterAbsorbs M).busy = false := by
  cases M
  · exact idle
  · rfl

theorem State.afterAbsorbs_lastErr {M : List Word} (h : M ≠ []) : (s.afterAbsorbs M).lastErr = false := by
  cases M
  · exact absurd rfl h
  · rfl

theorem State.afterAbsorbs_afterSuccess (v : Word) :
    (s.afterSuccess (absorbByte (dinByte v) s.ctx)).afterAbsorbs M = s.afterAbsorbs (v :: M) := by
  cases M <;> rfl

/-- In ABSORBING the ABSORBs of a message are absorb_byte over its bytes. -/
theorem execAll_absorb {s : State} (idle : s.busy = false) (hp : s.ctx.phase = .absorbing) :
    execAll (M.map .absorb) s = .next (s.afterAbsorbs M) := by
  induction M generalizing s with
  | nil => rfl
  | cons v M ih =>
    rw [List.map_cons, execAll_cons (exec_absorb_absorbing v idle hp), ih rfl (by simpa using hp),
      State.afterAbsorbs_afterSuccess]

end Message

/-- Settles O42: `execAll_absorb` for the message and for its first part, `execAll_append` for the second. -/
theorem absorbingIsTheSameHoweverTheMessageIsCut : Obligations.AbsorbingIsTheSameHoweverTheMessageIsCut := by
  refine fun M s idle hp => ⟨s.afterAbsorbs M, execAll_absorb M idle hp, s.afterAbsorbs_ctx M,
    fun h => s.afterAbsorbs_lastErr h, by simp, by simp, fun A B hcut => ?_⟩
  have hA := execAll_absorb A idle hp
  refine ⟨s.afterAbsorbs A, hA, ?_⟩
  rw [← execAll_append _ hA, ← List.map_append, hcut, execAll_absorb M idle hp]

/-! The output. -/

/-- Output byte k of a session whose message has left the context c (R112, R119). -/
def Context.digestByte (c : Context) (k : Nat) : Byte := windowByte c.rate.toNat (permute (injectPadding c)).lanes k

theorem finishContext_outputByte (olen : Long) (c : Context) (k : Nat) :
    (finishContext olen c).outputByte k = c.digestByte k := by
  rw [Context.outputByte, Context.digestByte]
  exact congrArg _ (Nat.zero_add k)

theorem finishContext_outputPhase (olen : Long) {c : Context} (h : 0 < c.rate) : (finishContext olen c).OutputPhase :=
  ⟨h, rfl⟩

/-- A FINISH that succeeds and n SQUEEZEs, n at most OLEN, return the first n output bytes. -/
theorem execAll_finish_squeeze {s : State} {n : Nat} (idle : s.busy = false) (hp : s.ctx.phase = .absorbing)
    (hl : s.ctx.dlen = 0 ∨ s.olen = s.ctx.dlen.setWidth 64) (hindex : s.ctx.index < s.ctx.rate)
    (hn : n ≤ s.olen.toNat) :
    ∃ t, execAll (.finish :: List.replicate n .squeeze) s = .next t ∧ t.ctx.OutputPhase ∧
      t.ctx.rem.toNat = s.olen.toNat - n ∧ t.lastErr = false ∧ t.stickyErr = s.stickyErr ∧
      t.reads = s.reads ++ (List.range n).map fun k => (s.ctx.digestByte k).setWidth 32 := by
  have hrate : 0 < s.ctx.rate := by bv_omega
  obtain ⟨t, ht, -, hout, hrem, hlast, hsticky, hreads⟩ := execAll_squeeze n
    (s.afterSuccess (finishContext s.olen s.ctx)) rfl (finishContext_outputPhase s.olen hrate) hn
  refine ⟨t, (execAll_cons (exec_finish_legal idle hp hl)).trans ht, hout, hrem, by simpa using hlast, hsticky, ?_⟩
  simpa only [State.afterSuccess_ctx, State.afterSuccess_reads, finishContext_outputByte] using hreads

end Sys2Proof.Machine
end

section
/-! PROOF. START_CSHAKE and the bytes of its strings lead to an ABSORBING session (spec/43_cshake.md R129 to R136). The
sequencer's own fields, PHASE, REM and LSLEN, are kept apart from the context that absorbs: what is absorbed does not
depend on them. -/

namespace Sys2Proof.Machine

/-- The context c with the preamble sequencer's fields. -/
def Context.sequencer (c : Context) (phase : Phase) (rem lslen : Long) : Context :=
  { c with phase := phase, rem := rem, lslen := lslen }

section Sequencer

variable (c : Context) (p : Phase) (r l : Long)

theorem sequencer_of_fields {c : Context} (hp : c.phase = p) (hr : c.rem = r) (hl : c.lslen = l) :
    c.sequencer p r l = c := by
  subst hp hr hl
  rfl

theorem absorbByte_sequencer (b : Byte) : absorbByte b (c.sequencer p r l) = (absorbByte b c).sequencer p r l := by
  by_cases h : c.index + 1 = c.rate
  · rw [absorbByte_eq, absorbByte_eq, if_pos h]
    exact if_pos h
  · rw [absorbByte_eq, absorbByte_eq, if_neg h]
    exact if_neg h

theorem absorbBytes_sequencer (bs : List Byte) :
    absorbBytes bs (c.sequencer p r l) = (absorbBytes bs c).sequencer p r l := by
  induction bs generalizing c with
  | nil => rfl
  | cons b bs ih => rw [absorbBytes_cons, absorbByte_sequencer, ih, absorbBytes_cons]

theorem padToBoundary_sequencer : padToBoundary (c.sequencer p r l) = (padToBoundary c).sequencer p r l := by
  by_cases h : c.index ≠ 0
  · rw [padToBoundary, padToBoundary, if_pos h]
    exact if_pos h
  · rw [padToBoundary, padToBoundary, if_neg h]
    exact if_neg h

theorem preambleByte_sequencer (b : Byte) :
    preambleByte b (c.sequencer p r l) = preambleAdvance ((absorbByte b c).sequencer p (r - 1) l) := by
  simp only [preambleByte, absorbByte_sequencer]
  rfl

theorem beginPreamble_sequencer (nlen slen : Long) : beginPreamble c nlen slen =
    preambleAdvance ((absorbBytes (leftEncode c.rate.toNat ++ leftEncode (8 * nlen.toNat))
      { c with suffix := 0x04 }).sequencer .preN nlen slen) := rfl

/-- With string bytes owed the sequencer waits. -/
theorem preambleAdvance_waits {r : Long} (h : r ≠ 0) : preambleAdvance (c.sequencer p r l) = c.sequencer p r l := by
  have hN : advanceFromN (c.sequencer p r l) = c.sequencer p r l := if_neg fun hw => h hw.2
  rw [preambleAdvance, hN]
  exact if_neg fun hw => h hw.2

/-- With N complete the sequencer goes on as it does after left_encode of the length of S. -/
theorem preambleAdvance_fromN : preambleAdvance (c.sequencer .preN 0 l) =
    preambleAdvance ((absorbBytes (leftEncode (8 * l.toNat)) c).sequencer .preS l l) := by
  have hN : advanceFromN (c.sequencer .preN 0 l) =
      (absorbBytes (leftEncode (8 * l.toNat)) c).sequencer .preS l l := by
    rw [advanceFromN, if_pos ⟨rfl, rfl⟩, absorbBytes_sequencer]
    rfl
  rw [preambleAdvance, preambleAdvance, hN]
  rfl

/-- With S complete the block is filled and the session is ABSORBING. -/
theorem preambleAdvance_fromS :
    preambleAdvance (c.sequencer .preS 0 l) = (padToBoundary c).sequencer .absorbing 0 0 := by
  have hS : advanceFromS (c.sequencer .preS 0 l) = (padToBoundary c).sequencer .absorbing 0 0 := by
    rw [advanceFromS, if_pos ⟨rfl, rfl⟩, padToBoundary_sequencer]
    rfl
  exact hS

end Sequencer

@[simp] theorem dinByte_setWidth (b : Byte) : dinByte (b.setWidth 32) = b := by
  rw [dinByte, BitVec.extractLsb'_setWidth_of_le (by decide), BitVec.extractLsb'_eq_self]

/-- The bytes of a string, all that REM owes, are absorbed; then the sequencer moves on. -/
theorem execAll_string {p : Phase} (hp : p = .preN ∨ p = .preS) (l : Long) (s : State) (bs : List Byte) :
    ∀ (c : Context) (r : Long), r.toNat = bs.length →
      execAll (bs.map fun b => .absorb (b.setWidth 32)) (s.afterSuccess (preambleAdvance (c.sequencer p r l))) =
        .next (s.afterSuccess (preambleAdvance ((absorbBytes bs c).sequencer p 0 l))) := by
  induction bs with
  | nil =>
    intro c r hr
    obtain rfl : r = 0 := BitVec.eq_of_toNat_eq hr
    rfl
  | cons b bs ih =>
    intro c r hr
    rw [List.length_cons] at hr
    have hnext : exec (.absorb (b.setWidth 32)) (s.afterSuccess (c.sequencer p r l)) =
        .next (s.afterSuccess (preambleAdvance ((absorbByte b c).sequencer p (r - 1) l))) := by
      rw [exec_absorb_preamble (s := s.afterSuccess (c.sequencer p r l)) _ rfl hp, dinByte_setWidth]
      exact congrArg (fun d => Host.Outcome.next (s.afterSuccess d)) (preambleByte_sequencer c p r l b)
    rw [List.map_cons, preambleAdvance_waits c p l (r := r) (by bv_omega), execAll_cons hnext,
      ih (absorbByte b c) (r - 1) (by bv_omega), absorbBytes_cons]

/-- What the session of a cSHAKE family has absorbed when its message begins: nothing for two empty strings (R131), else
the framed strings with the block filled (R128). -/
def cshakeContext (fid : BitVec 4) (row : FamilyRow) (N S : List Byte) : Context :=
  if N = [] ∧ S = [] then beginSession fid row
  else padToBoundary (absorbBytes (leftEncode row.rate.toNat ++ leftEncode (8 * N.length) ++ N ++
    leftEncode (8 * S.length) ++ S) { beginSession fid row with suffix := 0x04 })

/-- START_CSHAKE and the bytes of N and S (R136). -/
theorem execAll_startCshake_strings {s : State} {fid : BitVec 4} {row : FamilyRow} {N S : List Byte}
    (idle : s.busy = false) (hf : isCshake fid = true) (hrow : lookupFamily fid = some row)
    (hN : N.length < 2 ^ 61) (hS : S.length < 2 ^ 61)
    (hnlen : s.nlen = BitVec.ofNat 64 N.length) (hslen : s.slen = BitVec.ofNat 64 S.length) :
    execAll (.startCshake fid :: (N ++ S).map fun b => .absorb (b.setWidth 32)) s =
      .next (s.afterSuccess (cshakeContext fid row N S)) := by
  have hn : s.nlen.toNat = N.length := by rw [hnlen, BitVec.toNat_ofNat]; omega
  have hs : s.slen.toNat = S.length := by rw [hslen, BitVec.toNat_ofNat]; omega
  have hempty : (s.nlen = 0 ∧ s.slen = 0) ↔ (N = [] ∧ S = []) := by
    rw [← List.length_eq_zero_iff, ← List.length_eq_zero_iff, ← hn, ← hs]
    bv_omega
  rw [execAll_cons (exec_startCshake_legal idle hf hrow (by omega) (by omega)), cshakeContext]
  by_cases he : N = [] ∧ S = []
  · rw [if_pos (hempty.2 he), if_pos he, he.1, he.2]
    rfl
  · rw [if_neg (hempty.not.2 he), if_neg he, beginPreamble_sequencer, List.map_append,
      execAll_append _ (execAll_string (.inl rfl) _ s N _ _ hn), preambleAdvance_fromN,
      execAll_string (.inr rfl) _ s S _ _ hs, preambleAdvance_fromS, hn, hs]
    simp only [absorbBytes_append]
    rw [sequencer_of_fields] <;> simp [beginSession]

end Sys2Proof.Machine
end

section
/-! PROOF. The output of an XOF session does not depend on how much of it is asked for (spec/42_sponge.md R117): the
beginning and the message leave one context whatever OLEN holds, and the k-th output byte is a function of it. -/

namespace Sys2Proof.Machine

/-- A context in which an XOF session takes its message. -/
def Context.XofAbsorbing (c : Context) : Prop := c.phase = .absorbing ∧ c.dlen = 0 ∧ c.index < c.rate

theorem Context.InSession.xofAbsorbing {c : Context} (h : c.InSession) (hxof : isXof c.fid = true)
    (hp : c.phase = .absorbing) : c.XofAbsorbing := ⟨hp, h.dlen_eq_zero_iff.2 hxof, h.2⟩

theorem exists_row_of_isXof {fid : BitVec 4} (h : isXof fid = true) : ∃ row, lookupFamily fid = some row := by
  have all : ∀ fid, isXof fid = true → (lookupFamily fid).isSome := by decide
  exact Option.isSome_iff_exists.1 (all fid h)

theorem isXof_of_isCshake {fid : BitVec 4} (h : isCshake fid = true) : isXof fid = true := by
  have all : ∀ fid, isCshake fid = true → isXof fid = true := by decide
  exact all fid h

section Begin

variable {fid : BitVec 4} {row : FamilyRow}

theorem beginSession_xofAbsorbing (h : lookupFamily fid = some row) (hxof : isXof fid = true) :
    (beginSession fid row).XofAbsorbing :=
  (beginSession_inSession h rfl rfl).xofAbsorbing hxof rfl

theorem cshakeContext_xofAbsorbing (h : lookupFamily fid = some row) (hf : isCshake fid = true) (N S : List Byte) :
    (cshakeContext fid row N S).XofAbsorbing := by
  have ⟨hp, hd, hi⟩ := beginSession_xofAbsorbing h (isXof_of_isCshake hf)
  unfold cshakeContext
  split
  · exact ⟨hp, hd, hi⟩
  · exact ⟨by simpa using hp, by simpa using hd, by simpa [beginSession] using hi⟩

end Begin

/-- The instructions lead from s to the context c, whatever OLEN holds, and return nothing. -/
def State.LeadsTo (s : State) (start : List Instr) (c : Context) : Prop :=
  ∀ olen, ∃ t, execAll start (s.withOlen olen) = .next t ∧ t.busy = false ∧ t.ctx = c ∧ t.olen = olen ∧
    t.reads = s.reads

/-- The bytes of a session with OLEN = olen, all of them read: the k-th one does not depend on OLEN. -/
theorem State.LeadsTo.sessionInstrs {s : State} {start : List Instr} {c : Context} (h : s.LeadsTo start c)
    (hc : c.XofAbsorbing) (M : List Word) (olen : Long) :
    ∃ t, execAll (sessionInstrs start M olen.toNat) (s.withOlen olen) = .next t ∧
      t.reads = s.reads ++ (List.range olen.toNat).map fun k =>
        ((absorbBytes (M.map dinByte) c).digestByte k).setWidth 32 := by
  obtain ⟨u, hu, idle, rfl, holen, hreads⟩ := h olen
  obtain ⟨hp, hd, hi⟩ := hc
  obtain ⟨t, ht, -, -, -, -, hreads'⟩ := execAll_finish_squeeze (s := u.afterAbsorbs M) (n := olen.toNat)
    (State.afterAbsorbs_busy M idle) (by simpa using hp) (.inl (by simpa using hd))
    (by simpa using absorbBytes_index_lt _ _ hi) (by simp [holen])
  refine ⟨t, ?_, by simpa [hreads] using hreads'⟩
  rw [Machine.sessionInstrs, execAll_append _ hu, execAll_append _ (execAll_absorb M idle hp), ht]

/-- Settles O44: each way to begin leads to one context whatever OLEN holds, and both outputs are beginnings of one
sequence of bytes. -/
theorem shorterXofOutputIsAPrefix : Obligations.ShorterXofOutputIsAPrefix := by
  intro start M olen1 olen2 s idle hstart hlt
  obtain ⟨c, hc, hlead⟩ : ∃ c : Context, c.XofAbsorbing ∧ s.LeadsTo start c := by
    obtain ⟨fid, hxof, rfl⟩ | ⟨fid, N, S, hf, hN, hS, hnlen, hslen, rfl⟩ | ⟨rfl, hinv, hp, hxof⟩ := hstart
    · obtain ⟨row, hrow⟩ := exists_row_of_isXof hxof
      exact ⟨_, beginSession_xofAbsorbing hrow hxof, fun olen =>
        ⟨_, execAll_cons (exec_start_row (s := s.withOlen olen) idle hrow), rfl, rfl, rfl, rfl⟩⟩
    · obtain ⟨row, hrow⟩ := exists_row_of_isXof (isXof_of_isCshake hf)
      exact ⟨_, cshakeContext_xofAbsorbing hrow hf N S, fun olen =>
        ⟨_, execAll_startCshake_strings (s := s.withOlen olen) idle hf hrow hN hS hnlen hslen, rfl, rfl, rfl, rfl⟩⟩
    · have hsession : s.ctx.InSession := hinv.inSession (by simp [hp])
      exact ⟨_, hsession.xofAbsorbing hxof hp, fun olen => ⟨_, rfl, idle, rfl, rfl, rfl⟩⟩
  obtain ⟨t1, ht1, hreads1⟩ := hlead.sessionInstrs hc M olen1
  obtain ⟨t2, ht2, hreads2⟩ := hlead.sessionInstrs hc M olen2
  refine ⟨t1, t2, _, _, ht1, ht2, hreads1, hreads2, by simp, by simp, ?_⟩
  rw [← List.map_take, List.take_range, Nat.min_eq_left hlt.le]

end Sys2Proof.Machine
end

section
/-! PROOF. The session function SpongeOut (spec/42_sponge.md R121) computes the digest bytes of the engine's context:
its two loops are absorb_byte over the message and the windows of the output. -/

namespace Sys2Proof.Machine

theorem spongeAbsorb_eq (M : List Byte) : ∀ c : Context, c.index < c.rate →
    spongeAbsorb c.rate.toNat M (c.lanes, c.index.toNat) =
      ((absorbBytes M c).lanes, (absorbBytes M c).index.toNat) := by
  induction M with
  | nil => exact fun c _ => rfl
  | cons m M ih =>
    intro c h
    have hnext := ih (absorbByte m c) (absorbByte_index_lt m c h)
    rw [absorbBytes_cons, ← hnext, spongeAbsorb, absorbByte_rate, absorbByte_eq]
    by_cases hedge : c.index + 1 = c.rate
    · have hedge' : c.index.toNat + 1 = c.rate.toNat := by bv_omega
      rw [if_pos hedge, if_pos hedge']
      rfl
    · have hedge' : c.index.toNat + 1 ≠ c.rate.toNat := by bv_omega
      have hindex : (c.index + 1).toNat = c.index.toNat + 1 := by bv_omega
      rw [if_neg hedge, if_neg hedge', hindex]

/-- The second loop, from offset i of the window of P. -/
theorem spongeSqueeze_eq {r : Nat} (hr : 0 < r) (n : Nat) : ∀ (P : Lanes) (i : Nat), i ≤ r →
    spongeSqueeze r n P i = (List.range n).map fun k => windowByte r P (i + k) := by
  induction n with
  | zero => exact fun P i _ => rfl
  | succ n ih =>
    intro P i hi
    rw [spongeSqueeze, List.range_succ_eq_map, List.map_cons, List.map_map]
    by_cases hedge : i = r
    · subst hedge
      rw [if_pos rfl, ih (keccakF P) 1 hr, windowByte_rate_add P 0 hr, windowByte_inside _ hr]
      simp only [Function.comp_def, windowByte_rate_add P _ hr, Nat.succ_eq_one_add]
    · rw [if_neg hedge, ih P (i + 1) (by omega), windowByte_inside P (n := i + 0) (by omega)]
      simp only [Function.comp_def, Nat.succ_eq_one_add, Nat.add_assoc, Nat.add_zero]

/-- SpongeOut from a context with the zero state. -/
theorem spongeOut_eq (M : List Byte) (n : Nat) {c : Context} (hlanes : c.lanes = Lanes.zero) (hindex : c.index = 0)
    (hrate : 0 < c.rate) :
    spongeOut c.rate.toNat c.suffix M n = (List.range n).map (absorbBytes M c).digestByte := by
  have hloop := spongeAbsorb_eq M c (by rw [hindex]; exact hrate)
  rw [hlanes, hindex, show (0 : BitVec 8).toNat = 0 from rfl] at hloop
  rw [spongeOut, hloop, spongeSqueeze_eq hrate _ _ _ (Nat.zero_le _)]
  simp [Context.digestByte, spongePad, injectPadding]

end Sys2Proof.Machine
end

section
/-! PROOF. Host programs (spec/30_encoding.md R75, R76): the run of a list of lines, in every order of the two agents,
is the instructions of the lines one after the other; then the program HASH (spec/42_sponge.md R121). -/

namespace Sys2Proof.Machine

/-! Lines and their instructions. -/

/-- The lines are accesses that decode to the instructions. -/
def LinesMean (ls : List Line) (is : List Instr) : Prop := (ls.map fun l => decode l.access) = is.map .ok

section Lines

variable {ls ls' : List Line} {is is' : List Instr} {s u : State}

theorem LinesMean.append (h : LinesMean ls is) (h' : LinesMean ls' is') : LinesMean (ls ++ ls') (is ++ is') := by
  rw [LinesMean, List.map_append, List.map_append, h, h']

theorem decode_din (b : Byte) : decode (Line.din b).access = .ok (.absorb (b.setWidth 32)) :=
  decode_of_decodeAdmitted rfl rfl
theorem decode_dout : decode Line.dout.access = .ok .squeeze := decode_of_decodeAdmitted rfl rfl
theorem decode_finish : decode Line.finish.access = .ok .finish := decode_of_decodeAdmitted rfl rfl
theorem decode_wr_olenLo (v : Word) : decode (Line.wr (.name .olenLo) v).access = .ok (.wrOlenLo v) :=
  decode_of_decodeAdmitted rfl rfl
theorem decode_wr_olenHi (v : Word) : decode (Line.wr (.name .olenHi) v).access = .ok (.wrOlenHi v) :=
  decode_of_decodeAdmitted rfl rfl

theorem linesMean_start (fam : FamilyArg) : LinesMean [.start fam] [.start fam.fid] :=
  congrArg (fun i => [Except.ok i]) (decodeCommand_start fam.fid)

theorem linesMean_update (X : List Byte) :
    LinesMean (update X) (X.map fun b => .absorb (b.setWidth 32)) := by
  rw [LinesMean, update, List.map_map, List.map_map]
  exact List.map_congr_left fun b _ => decode_din b

/-- What FINAL olen expands to (R76). -/
def finalInstrs (olen : Long) : List Instr :=
  .wrOlenLo (lowHalf olen) :: .wrOlenHi (highHalf olen) :: .finish :: List.replicate olen.toNat .squeeze

theorem linesMean_final (olen : Long) : LinesMean (finalLines olen) (finalInstrs olen) := by
  simp [LinesMean, finalLines, finalInstrs, setlen, squeezeLines, LengthReg.lo, LengthReg.hi, decode_wr_olenLo,
    decode_wr_olenHi, decode_finish, decode_dout]

theorem performInOrder_lines (h : LinesMean ls is) : performInOrder (ls.map Line.access) s = execAll is s := by
  induction ls generalizing is s with
  | nil =>
    obtain rfl : is = [] := by simpa [LinesMean] using h.symm
    rfl
  | cons l ls ih =>
    obtain ⟨i, is, rfl, hi, his⟩ := List.map_eq_cons_iff.1 h.symm
    have hd : decode l.access = .ok i := hi.symm
    obtain ⟨t, ht, -⟩ := exec_next_effect i s
    simp only [List.map_cons, performInOrder, hd, ht, execAll_cons ht, ih his.symm]

theorem LinesMean.decode_mem (h : LinesMean ls is) {l : Line} (hl : l ∈ ls) : ∃ i ∈ is, decode l.access = .ok i := by
  obtain ⟨i, hi, heq⟩ := List.mem_map.1 (h ▸ List.mem_map_of_mem hl)
  exact ⟨i, hi, heq.symm⟩

/-- The run of lines without a STATUS read comes to its end as their instructions do, one after the other (R58). -/
theorem run_lines (h : LinesMean ls is) (hstatus : Instr.rdStatus ∉ is) (idle : s.busy = false)
    (hhost : s.host = lineEvents ls) (hu : execAll is s = .next u) :
    ∃ k ts, Host.Core.run core k s = .next (u.withSchedule [] ts) ∧ u.busy = false := by
  have hall : ∀ a ∈ ls.map Line.access, a.admitted ∧ a ≠ .read .word 0x04 := by
    intro a ha
    obtain ⟨l, hl, rfl⟩ := List.mem_map.1 ha
    obtain ⟨i, hi, hd⟩ := h.decode_mem hl
    refine ⟨(exists_decode_iff _).1 ⟨i, hd⟩, fun hread => hstatus ?_⟩
    rw [hread] at hd
    cases hd
    exact hi
  obtain ⟨k, u', ts, hrun, hperf, hu'⟩ := run_performInOrder (ls.map Line.access) s s.turns hall idle
  rw [performInOrder_lines h, hu] at hperf
  cases hperf
  have hself : s.withSchedule ((ls.map Line.access).map .access) s.turns = s := by
    rw [List.map_map, ← State.withSchedule_self s, hhost]
    rfl
  rw [hself] at hrun
  exact ⟨k, ts, hrun, hu'⟩

end Lines

/-! FINAL and HASH. -/

theorem assemble_halves (v : Long) : assemble (highHalf v) (lowHalf v) = v := by
  apply BitVec.eq_of_getLsbD_eq
  intro b hb
  by_cases hlow : b < 32
  · simp [assemble, lowHalf, hb, hlow]
  · simp [assemble, highHalf, lowHalf, hb, hlow, show b - 32 < 32 by omega, show 32 + (b - 32) = b by omega]

theorem exec_wrOlenLo {s : State} (v : Word) (idle : s.busy = false) :
    exec (.wrOlenLo v) s = .next (s.withOlen (setLow s.olen v)) :=
  plainWrite_idle s (fun t => t.withOlen (setLow t.olen v)) idle

theorem exec_wrOlenHi {s : State} (v : Word) (idle : s.busy = false) :
    exec (.wrOlenHi v) s = .next (s.withOlen (setHigh s.olen v)) :=
  plainWrite_idle s (fun t => t.withOlen (setHigh t.olen v)) idle

/-- FINAL olen in a session that olen is legal for: every output byte is read, and the session is at its end. -/
theorem execAll_final {s : State} {olen : Long} (idle : s.busy = false) (hp : s.ctx.phase = .absorbing)
    (hl : s.ctx.dlen = 0 ∨ olen = s.ctx.dlen.setWidth 64) (hindex : s.ctx.index < s.ctx.rate) :
    ∃ t, execAll (finalInstrs olen) s = .next t ∧ t.ctx.phase = .finalized ∧ t.lastErr = false ∧
      t.stickyErr = s.stickyErr ∧
      t.reads = s.reads ++ (List.range olen.toNat).map fun k => (s.ctx.digestByte k).setWidth 32 := by
  obtain ⟨t, ht, ⟨-, hphase⟩, hrem, hlast, hsticky, hreads⟩ :=
    execAll_finish_squeeze (s := s.withOlen olen) (n := olen.toNat) idle hp hl hindex le_rfl
  have hzero : t.ctx.rem = 0 := by
    apply BitVec.eq_of_toNat_eq
    simp [hrem]
  have hlo := exec_wrOlenLo (lowHalf olen) idle
  have hhi := exec_wrOlenHi (s := s.withOlen (setLow s.olen (lowHalf olen))) (highHalf olen) idle
  rw [State.withOlen_olen, setHigh_setLow, assemble_halves] at hhi
  exact ⟨t, (execAll_cons hlo).trans ((execAll_cons hhi).trans ht), hphase.trans (if_pos hzero), hlast, hsticky, hreads⟩

/-- UPDATE M and FINAL olen in such a session. -/
theorem execAll_update_final {s : State} {olen : Long} (M : List Byte) (idle : s.busy = false)
    (hp : s.ctx.phase = .absorbing) (hl : s.ctx.dlen = 0 ∨ olen = s.ctx.dlen.setWidth 64)
    (hindex : s.ctx.index < s.ctx.rate) :
    ∃ t, execAll ((M.map fun b => .absorb (b.setWidth 32)) ++ finalInstrs olen) s = .next t ∧
      t.ctx.phase = .finalized ∧ t.lastErr = false ∧ t.stickyErr = s.stickyErr ∧
      t.reads = s.reads ++ (List.range olen.toNat).map fun k => ((absorbBytes M s.ctx).digestByte k).setWidth 32 := by
  have hbytes : (M.map fun b => (b.setWidth 32 : Word)).map dinByte = M := by simp [Function.comp_def]
  have habsorb := execAll_absorb (M.map fun b => b.setWidth 32) idle hp
  rw [List.map_map] at habsorb
  obtain ⟨t, ht, hphase, hlast, hsticky, hreads⟩ := execAll_final (s := s.afterAbsorbs (M.map fun b => b.setWidth 32))
    (olen := olen) (State.afterAbsorbs_busy _ idle) (by simpa using hp) (by simpa using hl)
    (by simpa using absorbBytes_index_lt _ _ hindex)
  rw [State.afterAbsorbs_ctx, hbytes, State.afterAbsorbs_reads] at hreads
  exact ⟨t, (execAll_append _ habsorb).trans ht, hphase, hlast, by simpa using hsticky, hreads⟩

/-- What HASH fam, M, olen expands to (R76). -/
def hashInstrs (fid : BitVec 4) (M : List Byte) (olen : Long) : List Instr :=
  .start fid :: ((M.map fun b => .absorb (b.setWidth 32)) ++ finalInstrs olen)

theorem linesMean_hash (fam : FamilyArg) (M : List Byte) (olen : Long) :
    LinesMean (hashLines fam M olen) (hashInstrs fam.fid M olen) :=
  ((linesMean_start fam).append (linesMean_update M)).append (linesMean_final olen)

/-- HASH from any state with nothing pending: START leaves the zero state, which the message and FINAL take to the bytes
of SpongeOut. -/
theorem execAll_hash {s : State} {fid : BitVec 4} {row : FamilyRow} {olen : Long} (M : List Byte)
    (idle : s.busy = false) (hrow : lookupFamily fid = some row)
    (hl : row.dlen = 0 ∨ olen = row.dlen.setWidth 64) :
    ∃ t, execAll (hashInstrs fid M olen) s = .next t ∧ t.ctx.phase = .finalized ∧ t.lastErr = false ∧
      t.stickyErr = s.stickyErr ∧
      t.reads = s.reads ++ (spongeOut row.rate.toNat row.suffix M olen.toNat).map fun b => b.setWidth 32 := by
  have hsession : (beginSession fid row).InSession := beginSession_inSession hrow rfl rfl
  obtain ⟨t, ht, hphase, hlast, hsticky, hreads⟩ := execAll_update_final (s := s.afterSuccess (beginSession fid row)) M
    rfl rfl hl hsession.2
  refine ⟨t, (execAll_cons (exec_start_row idle hrow)).trans ht, hphase, hlast, hsticky, ?_⟩
  have hsponge : spongeOut row.rate.toNat row.suffix M olen.toNat = _ :=
    spongeOut_eq M olen.toNat (c := beginSession fid row) rfl rfl hsession.rate_pos
  rw [hsponge, List.map_map]
  exact hreads

/-- Settles O43: the run is the instructions of HASH one after the other (`run_lines`), and they return SpongeOut
(`execAll_hash`). -/
theorem hashRunReturnsTheSpongeOutput : Obligations.HashRunReturnsTheSpongeOutput := by
  intro fam M olen rate dlen suffix s hmem hl idle hhost
  obtain ⟨u, hu, hphase, hlast, hsticky, hreads⟩ := execAll_hash M idle (lookupFamily_of_mem hmem) hl
  obtain ⟨k, ts, hrun, hidle⟩ :=
    run_lines (linesMean_hash fam M olen) (by simp [hashInstrs, finalInstrs]) idle hhost hu
  exact ⟨k, u.withSchedule [] ts, hrun, ⟨rfl, hidle⟩, hphase, hlast, hsticky, hreads⟩

end Sys2Proof.Machine
end

section
/-! PROOF. left_encode and the preamble P(N, S, r) (spec/43_cshake.md R125 to R128): the bytes of left_encode are the
value in its least number of bytes, and the preamble is whole rate blocks long. -/

namespace Sys2Proof.Machine

/-! left_encode. -/

theorem bigEndian_succ (x n : Nat) : bigEndian x (n + 1) = BitVec.ofNat 8 (x >>> (8 * n)) :: bigEndian x n := by
  simp [bigEndian, List.range_succ]

/-- Reading n bytes of x, the most significant first, after the value v: x comes back modulo 2^(8n). -/
theorem foldl_bigEndian (x n : Nat) : ∀ v : Nat,
    (bigEndian x n).foldl (fun (v : Nat) b => 256 * v + b.toNat) v = 2 ^ (8 * n) * v + x % 2 ^ (8 * n) := by
  induction n with
  | zero => intro v; simp [bigEndian, Nat.mod_one]
  | succ n ih =>
    intro v
    have hpow : 2 ^ (8 * (n + 1)) = 2 ^ (8 * n) * 256 := by rw [Nat.mul_succ, Nat.pow_add]
    rw [bigEndian_succ, List.foldl_cons, ih, BitVec.toNat_ofNat, Nat.shiftRight_eq_div_pow, hpow, Nat.mod_mul]
    ring

theorem leftEncode_zero : leftEncode 0 = [0x01, 0x00] := rfl

/-- Settles O47: the byte count is the least that holds the value (`byteCountFrom_spec`), and the bytes after it are the
value big-endian (`foldl_bigEndian`). -/
theorem leftEncodeIsMinimalBigEndian : Obligations.LeftEncodeIsMinimalBigEndian := by
  refine ⟨fun x hx => ?_, leftEncode_zero⟩
  obtain ⟨hpos, hle, hfits, hleast⟩ := byteCountFrom_spec x 7 1
  refine ⟨byteCount x, bigEndian x (byteCount x), rfl, bigEndian_length x _, hpos, hle, ?_, hleast⟩
  have hx' : x < 2 ^ (8 * byteCount x) := hfits hx
  rw [foldl_bigEndian, Nat.mod_eq_of_lt hx', Nat.mul_zero, Nat.zero_add]

/-! The preamble. -/

/-- The preamble before its zero bytes. -/
def framedStrings (N S : List Byte) (r : Nat) : List Byte :=
  leftEncode r ++ leftEncode (8 * N.length) ++ N ++ leftEncode (8 * S.length) ++ S

/-- The number of zero bytes that bytepad adds to n bytes. -/
def zeroFill (r n : Nat) : Nat := (r - n % r) % r

theorem preamble_eq (N S : List Byte) (r : Nat) :
    preamble N S r = framedStrings N S r ++ List.replicate (zeroFill r (framedStrings N S r).length) 0 := by
  simp only [preamble, bytepad, encodeString, framedStrings, zeroFill, List.append_assoc]

theorem zeroFill_eq {r : Nat} (hr : 0 < r) (n : Nat) : zeroFill r n = if n % r = 0 then 0 else r - n % r := by
  unfold zeroFill
  split
  case isTrue h => rw [h, Nat.sub_zero, Nat.mod_self]
  case isFalse h => exact Nat.mod_eq_of_lt (by omega)

theorem add_zeroFill_mod {r : Nat} (hr : 0 < r) (n : Nat) : (n + zeroFill r n) % r = 0 := by
  have hn : n % r < r := Nat.mod_lt n hr
  rw [zeroFill_eq hr, Nat.add_mod]
  split
  case isTrue h => rw [h, Nat.zero_mod, Nat.zero_mod]
  case isFalse h => rw [Nat.mod_eq_of_lt (show r - n % r < r by omega), Nat.add_sub_cancel' hn.le, Nat.mod_self]

/-- Settles O48: the preamble is the framed strings and `zeroFill` zero bytes, which reach a multiple of the rate
(`add_zeroFill_mod`). -/
theorem preambleIsWholeBlocksOfTheRate : Obligations.PreambleIsWholeBlocksOfTheRate := by
  intro N S r hrate
  have hr : 0 < r := by omega
  have hblocks : (preamble N S r).length % r = 0 := by
    rw [preamble_eq, List.length_append, List.length_replicate, add_zeroFill_mod hr]
  have hpos : 0 < (preamble N S r).length := by
    have hlen := (leftEncode_length r).1
    simp only [preamble_eq, framedStrings, List.length_append]
    omega
  exact ⟨⟨_, Nat.mod_lt _ hr, preamble_eq N S r⟩, hblocks, Nat.le_of_dvd hpos (Nat.dvd_of_mod_eq_zero hblocks)⟩

end Sys2Proof.Machine
end

section
/-! PROOF. START_CSHAKE and the string bytes as whole accesses at BUSY = 0 (spec/43_cshake.md R129 to R135). -/

namespace Sys2Proof.Machine

/-! START_CSHAKE. -/

section StartCshake

variable {s : State} {fid : BitVec 4} {rate : BitVec 8}

theorem isCshake_eq_false (h : fid ≠ 7 ∧ fid ≠ 8) : isCshake fid = false := by
  obtain ⟨h7, h8⟩ := h
  rw [isCshake, beq_false_of_ne h7, beq_false_of_ne h8]
  rfl

/-- The rows of R100 that START_CSHAKE takes. -/
theorem cshakeRow_of_mem (h : (fid, rate) ∈ cshakeRows) :
    (rate = 168 ∨ rate = 136) ∧ isCshake fid = true ∧ lookupFamily fid = some ⟨rate, 0, 0x1F⟩ := by
  have all : ∀ r ∈ cshakeRows,
      (r.2 = 168 ∨ r.2 = 136) ∧ isCshake r.1 = true ∧ lookupFamily r.1 = some ⟨r.2, 0, 0x1F⟩ := by
    simp [cshakeRows, isCshake, lookupFamily]
  exact all _ h

theorem exec_startCshake_illegal (idle : s.busy = false)
    (h : isCshake fid = false ∨ 2 ^ 61 ≤ s.nlen.toNat ∨ 2 ^ 61 ≤ s.slen.toNat) :
    exec (.startCshake fid) s = .next (s.afterError Context.zero) :=
  exec_error (op := .startCshake fid s.nlen s.slen) idle rfl nofun (if_pos h)

/-- START_CSHAKE for two empty strings. -/
theorem exec_startCshake_empty (idle : s.busy = false) (hmem : (fid, rate) ∈ cshakeRows) (hn : s.nlen = 0)
    (hs : s.slen = 0) :
    exec (.startCshake fid) s = .next (s.afterSuccess (beginSession fid ⟨rate, 0, 0x1F⟩)) := by
  obtain ⟨-, hf, hrow⟩ := cshakeRow_of_mem hmem
  rw [exec_startCshake_legal idle hf hrow (by simp [hn]) (by simp [hs]), if_pos ⟨hn, hs⟩]

/-- START_CSHAKE for strings that are not both empty. -/
theorem exec_startCshake_strings (idle : s.busy = false) (hmem : (fid, rate) ∈ cshakeRows)
    (hn : s.nlen.toNat < 2 ^ 61) (hs : s.slen.toNat < 2 ^ 61) (hne : ¬ (s.nlen = 0 ∧ s.slen = 0)) :
    exec (.startCshake fid) s =
      .next (s.afterSuccess (beginPreamble (beginSession fid ⟨rate, 0, 0x1F⟩) s.nlen s.slen)) := by
  obtain ⟨-, hf, hrow⟩ := cshakeRow_of_mem hmem
  rw [exec_startCshake_legal idle hf hrow hn hs, if_neg hne]

end StartCshake

/-- Settles O49: one lemma for each branch of START_CSHAKE. -/
theorem startCshakeBeginsThePreambleOrClears : Obligations.StartCshakeBeginsThePreambleOrClears :=
  fun _ idle => ⟨fun _ h => exec_startCshake_illegal idle (h.imp_left isCshake_eq_false),
    fun _ _ => exec_startCshake_empty idle,
    fun _ _ hmem hn hs hne => ⟨_, rfl, exec_startCshake_strings idle hmem hn hs hne⟩⟩

/-- The zero state of a cSHAKE session that has strings to absorb. -/
def cshakeStart (fid : BitVec 4) (rate : BitVec 8) : Context :=
  { beginSession fid ⟨rate, 0, 0x1F⟩ with suffix := 0x04 }

/-- Where the sequencer stands after START_CSHAKE: at the first byte of N, or of S where N is empty. -/
theorem beginPreamble_waits (fid : BitVec 4) (rate : BitVec 8) {nlen slen : Long} (hne : ¬ (nlen = 0 ∧ slen = 0)) :
    beginPreamble (beginSession fid ⟨rate, 0, 0x1F⟩) nlen slen =
      if nlen = 0 then
        (absorbBytes (leftEncode rate.toNat ++ leftEncode 0 ++ leftEncode (8 * slen.toNat))
          (cshakeStart fid rate)).sequencer .preS slen slen
      else
        (absorbBytes (leftEncode rate.toNat ++ leftEncode (8 * nlen.toNat))
          (cshakeStart fid rate)).sequencer .preN nlen slen := by
  rw [beginPreamble_sequencer]
  by_cases hn : nlen = 0
  · subst hn
    have hs : slen ≠ 0 := fun hs => hne ⟨rfl, hs⟩
    rw [if_pos rfl, preambleAdvance_fromN, preambleAdvance_waits _ _ _ hs, ← absorbBytes_append]
    rfl
  · rw [if_neg hn, preambleAdvance_waits _ _ _ hn]
    rfl

/-- left_encode of a rate is two bytes. -/
theorem leftEncode_rate_length {fid : BitVec 4} {rate : BitVec 8} (h : (fid, rate) ∈ cshakeRows) :
    (leftEncode rate.toNat).length = 2 := by
  obtain ⟨rfl | rfl, -⟩ := cshakeRow_of_mem h <;> rfl

/-- A header is far shorter than a rate block, so INDEX is its length. -/
theorem absorbBytes_cshakeStart_index {fid : BitVec 4} {rate : BitVec 8} (h : (fid, rate) ∈ cshakeRows)
    {bs : List Byte} (hlen : bs.length ≤ 13) :
    (absorbBytes bs (cshakeStart fid rate)).index.toNat = bs.length := by
  have hrate : 136 ≤ rate.toNat := by obtain ⟨rfl | rfl, -⟩ := cshakeRow_of_mem h <;> decide
  have hinside : 0 + bs.length < rate.toNat := by omega
  exact (absorbBytes_index_inside bs (cshakeStart fid rate) hinside).trans (Nat.zero_add _)

theorem absorbBytes_cshakeStart_parameters (bs : List Byte) (fid : BitVec 4) (rate : BitVec 8) :
    (absorbBytes bs (cshakeStart fid rate)).suffix = 0x04 ∧ (absorbBytes bs (cshakeStart fid rate)).rate = rate ∧
      (absorbBytes bs (cshakeStart fid rate)).fid = fid ∧ (absorbBytes bs (cshakeStart fid rate)).dlen = 0 := by
  simp [cshakeStart, beginSession]

/-- Settles O50: `beginPreamble_waits` names the header absorbed in each case, and INDEX is its length. -/
theorem startCshakeWaitsForTheStrings : Obligations.StartCshakeWaitsForTheStrings := by
  intro s fid rate hmem idle hn hs hne
  have hhead := leftEncode_rate_length hmem
  have hzero : (leftEncode 0).length = 2 := rfl
  have hnlen := (leftEncode_length (8 * s.nlen.toNat)).2
  have hslen := (leftEncode_length (8 * s.slen.toNat)).2
  refine ⟨_, exec_startCshake_strings idle hmem hn hs hne, rfl, ?_⟩
  rw [State.afterSuccess_ctx, beginPreamble_waits fid rate hne]
  split
  case isTrue hempty =>
    have hindex := absorbBytes_cshakeStart_index hmem
      (bs := leftEncode rate.toNat ++ leftEncode 0 ++ leftEncode (8 * s.slen.toNat))
      (by simp only [List.length_append]; omega)
    simp only [List.length_append, hhead, hzero] at hindex
    obtain ⟨hsuffix, hrate, hfid, hdlen⟩ := absorbBytes_cshakeStart_parameters
      (leftEncode rate.toNat ++ leftEncode 0 ++ leftEncode (8 * s.slen.toNat)) fid rate
    exact ⟨hsuffix, hrate, hfid, hdlen, rfl, hindex.trans_le (by omega), absurd hempty,
      fun _ => ⟨rfl, rfl, hindex⟩⟩
  case isFalse hsome =>
    have hindex := absorbBytes_cshakeStart_index hmem
      (bs := leftEncode rate.toNat ++ leftEncode (8 * s.nlen.toNat)) (by simp only [List.length_append]; omega)
    simp only [List.length_append, hhead] at hindex
    obtain ⟨hsuffix, hrate, hfid, hdlen⟩ := absorbBytes_cshakeStart_parameters
      (leftEncode rate.toNat ++ leftEncode (8 * s.nlen.toNat)) fid rate
    exact ⟨hsuffix, hrate, hfid, hdlen, rfl, hindex.trans_le (by omega), fun _ => ⟨rfl, rfl, hindex⟩,
      fun h => absurd h hsome⟩

/-! The string bytes. -/

section Advance

variable {c : Context}

theorem preambleAdvance_of_rem_ne (h : c.rem ≠ 0) : preambleAdvance c = c :=
  preambleAdvance_waits c c.phase c.lslen h

theorem preambleAdvance_of_preN (hp : c.phase = .preN) (hr : c.rem = 0) (hl : c.lslen ≠ 0) :
    preambleAdvance c = { absorbBytes (leftEncode (8 * c.lslen.toNat)) c with rem := c.lslen, phase := .preS } := by
  obtain ⟨-, hN, -⟩ | ⟨-, -, -, heq⟩ | ⟨-, -, hl', -⟩ | ⟨hS, -⟩ := preambleAdvance_cases c
  · exact absurd ⟨hp, hr⟩ hN
  · exact heq
  · exact absurd hl' hl
  · cases hp.symm.trans hS

theorem preambleAdvance_of_preN_empty (hp : c.phase = .preN) (hr : c.rem = 0) (hl : c.lslen = 0) :
    preambleAdvance c =
      { padToBoundary (absorbBytes [0x01, 0x00] c) with rem := 0, lslen := 0, phase := .absorbing } := by
  obtain ⟨-, hN, -⟩ | ⟨-, -, hl', -⟩ | ⟨-, -, -, heq⟩ | ⟨hS, -⟩ := preambleAdvance_cases c
  · exact absurd ⟨hp, hr⟩ hN
  · exact absurd hl hl'
  · have hrem : (padToBoundary (absorbBytes [0x01, 0x00] c)).rem = 0 := by simp [hr]
    rw [heq, leftEncode_zero]
    simp only [hrem]
  · cases hp.symm.trans hS

theorem preambleAdvance_of_preS (hp : c.phase = .preS) (hr : c.rem = 0) :
    preambleAdvance c = { padToBoundary c with lslen := 0, phase := .absorbing } := by
  obtain ⟨-, -, hS⟩ | ⟨hN, -⟩ | ⟨hN, -⟩ | ⟨-, -, heq⟩ := preambleAdvance_cases c
  · exact absurd ⟨hp, hr⟩ hS
  · cases hp.symm.trans hN
  · cases hp.symm.trans hN
  · exact heq

end Advance

theorem preambleByte_eq (b : Byte) (c : Context) :
    preambleByte b c = preambleAdvance { absorbByte b c with rem := c.rem - 1 } := by
  rw [preambleByte, absorbByte_rem]

/-- Settles O51: ABSORB is preamble_advance on the context c, and each clause is one case of preamble_advance. -/
theorem stringBytesMoveThePreambleOn : Obligations.StringBytesMoveThePreambleOn := by
  intro v s c idle hphase hc
  have hexec : exec (.absorb v) s = .next (s.afterSuccess (preambleAdvance c)) := by
    rw [exec_absorb_preamble v idle hphase, preambleByte_eq, hc, dinByte]
  have hp : c.phase = s.ctx.phase := by simp [hc]
  have hl : c.lslen = s.ctx.lslen := by simp [hc]
  rw [hexec, ← hp, ← hl]
  refine ⟨fun hr => ?_, fun hN hr hlen => ?_, fun hN hr hlen => ?_, fun hS hr => ?_⟩
  · rw [preambleAdvance_of_rem_ne hr]
  · rw [preambleAdvance_of_preN hN hr hlen]
  · rw [preambleAdvance_of_preN_empty hN hr hlen]
  · rw [preambleAdvance_of_preS hS hr]

end Sys2Proof.Machine
end

section
/-! PROOF. The preamble run (spec/43_cshake.md R136): pad_to_boundary is the zero bytes of bytepad, so START_CSHAKE and
the string bytes absorb P(N, S, RATE). -/

namespace Sys2Proof.Machine

/-- INDEX counts the bytes absorbed modulo RATE. -/
theorem absorbBytes_index_mod (bs : List Byte) (c : Context) (h : c.index < c.rate) :
    (absorbBytes bs c).index.toNat = (c.index.toNat + bs.length) % c.rate.toNat := by
  induction bs generalizing c with
  | nil => exact (Nat.mod_eq_of_lt h).symm
  | cons b bs ih =>
    rw [absorbBytes_cons, ih _ (absorbByte_index_lt b c h), absorbByte_rate, absorbByte_index, List.length_cons]
    by_cases hedge : c.index + 1 = c.rate
    · have hnext : c.index.toNat + (bs.length + 1) = c.rate.toNat + bs.length := by bv_omega
      rw [if_pos hedge, hnext, Nat.add_mod_left]
      simp
    · have hnext : (c.index + 1).toNat = c.index.toNat + 1 := by bv_omega
      rw [if_neg hedge, hnext, Nat.add_assoc, Nat.add_comm 1]

/-- pad_to_boundary absorbs the zero bytes that bytepad adds. -/
theorem absorbBytes_zeroFill (bs : List Byte) {c : Context} (h0 : c.index = 0) (hrate : 0 < c.rate) :
    absorbBytes (bs ++ List.replicate (zeroFill c.rate.toNat bs.length) 0) c = padToBoundary (absorbBytes bs c) := by
  have hlt : c.index < c.rate := by rw [h0]; exact hrate
  have hindex : (absorbBytes bs c).index.toNat = bs.length % c.rate.toNat := by
    rw [absorbBytes_index_mod bs c hlt, h0]
    exact congrArg (· % c.rate.toNat) (Nat.zero_add _)
  obtain ⟨hnone, hsome⟩ := padToBoundaryAbsorbsZeroBytes (absorbBytes bs c)
    (by rw [absorbBytes_rate]; exact absorbBytes_index_lt bs c hlt)
  rw [absorbBytes_append, zeroFill_eq hrate, ← hindex]
  by_cases hz : (absorbBytes bs c).index = 0
  · rw [if_pos (by simp [hz]), hnone hz]
    rfl
  · rw [if_neg (by bv_omega), hsome hz, absorbBytes_rate]

/-- What the session has absorbed when its message begins is the preamble, where there is a string (R136). -/
theorem cshakeContext_eq_preamble (fid : BitVec 4) {rate : BitVec 8} (hrate : 0 < rate) {N S : List Byte}
    (hne : ¬ (N = [] ∧ S = [])) :
    cshakeContext fid ⟨rate, 0, 0x1F⟩ N S = absorbBytes (preamble N S rate.toNat) (cshakeStart fid rate) := by
  rw [preamble_eq]
  exact (if_neg hne).trans (absorbBytes_zeroFill (c := cshakeStart fid rate) _ rfl hrate).symm

/-- What absorb_byte makes of S and INDEX depends on S, INDEX and RATE alone. -/
theorem absorbBytes_lanes_index_congr (bs : List Byte) {c d : Context} (hlanes : c.lanes = d.lanes)
    (hrate : c.rate = d.rate) (hindex : c.index = d.index) (hlt : c.index < c.rate) :
    (absorbBytes bs c).lanes = (absorbBytes bs d).lanes ∧ (absorbBytes bs c).index = (absorbBytes bs d).index := by
  have hc := spongeAbsorb_eq bs c hlt
  rw [hlanes, hrate, hindex, spongeAbsorb_eq bs d (by rwa [← hrate, ← hindex])] at hc
  obtain ⟨hl, hi⟩ := Prod.mk.inj hc
  exact ⟨hl.symm, BitVec.eq_of_toNat_eq hi.symm⟩

theorem cshakeRow_rate_pos {fid : BitVec 4} {rate : BitVec 8} (h : (fid, rate) ∈ cshakeRows) : 0 < rate := by
  obtain ⟨rfl | rfl, -⟩ := cshakeRow_of_mem h <;> decide

/-- Settles O52: the session has absorbed the preamble (`cshakeContext_eq_preamble`), and of the context that absorbs it
S and INDEX depend on S, INDEX and RATE alone. -/
theorem preambleRunAbsorbsTheFramedStrings : Obligations.PreambleRunAbsorbsTheFramedStrings := by
  intro s fid rate N S hmem idle hN hS hne hnlen hslen
  obtain ⟨-, hf, hrow⟩ := cshakeRow_of_mem hmem
  have hrate := cshakeRow_rate_pos hmem
  have hctx := cshakeContext_eq_preamble fid hrate hne
  obtain ⟨hlanes, hindex⟩ := absorbBytes_lanes_index_congr (preamble N S rate.toNat)
    (c := cshakeStart fid rate) (d := { Context.zero with rate := rate }) rfl rfl rfl hrate
  have hdone : (cshakeContext fid ⟨rate, 0, 0x1F⟩ N S).index = 0 := by simp [cshakeContext, hne]
  refine ⟨_, execAll_startCshake_strings idle hf hrow hN hS hnlen hslen, rfl,
    (cshakeContext_xofAbsorbing hrow hf N S).1, hdone, ?_, ?_, ?_⟩ <;> rw [State.afterSuccess_ctx, hctx]
  · simp [cshakeStart, beginSession]
  · exact hlanes
  · exact hindex

end Sys2Proof.Machine
end

section
/-! PROOF. The program CHASH (spec/43_cshake.md R137, 30_encoding.md R76): SETLEN of both lengths, START_CSHAKE and the
string bytes, then the message and FINAL as in HASH. -/

namespace Sys2Proof.Machine

/-! SETLEN. -/

section Setlen

variable (r : LengthReg) (v w : Long)

/-- The instruction that writes the low half of a length register. -/
def LengthReg.writeLo : LengthReg → Word → Instr
  | .nlen => .wrNlenLo
  | .slen => .wrSlenLo
  | .olen => .wrOlenLo

/-- The instruction that writes the high half. -/
def LengthReg.writeHi : LengthReg → Word → Instr
  | .nlen => .wrNlenHi
  | .slen => .wrSlenHi
  | .olen => .wrOlenHi

/-- The value of a length register. -/
def State.length (s : State) : LengthReg → Long
  | .nlen => s.nlen
  | .slen => s.slen
  | .olen => s.olen

/-- Replaces a length register. -/
def State.withLength (s : State) : LengthReg → Long → State
  | .nlen => s.withNlen
  | .slen => s.withSlen
  | .olen => s.withOlen

/-- What SETLEN expands to (R76). -/
def setlenInstrs : List Instr := [r.writeLo (lowHalf v), r.writeHi (highHalf v)]

theorem decode_wr_lo (h : Word) : decode (Line.wr (.name r.lo) h).access = .ok (r.writeLo h) := by
  cases r <;> exact decode_of_decodeAdmitted rfl rfl

theorem decode_wr_hi (h : Word) : decode (Line.wr (.name r.hi) h).access = .ok (r.writeHi h) := by
  cases r <;> exact decode_of_decodeAdmitted rfl rfl

theorem linesMean_setlen : LinesMean (setlen r v) (setlenInstrs r v) := by
  simp [LinesMean, setlen, setlenInstrs, decode_wr_lo, decode_wr_hi]

variable {s : State}

@[simp] theorem State.withLength_length : (s.withLength r v).length r = v := by cases r <;> rfl
@[simp] theorem State.withLength_withLength : (s.withLength r v).withLength r w = s.withLength r w := by cases r <;> rfl
@[simp] theorem State.withLength_busy : (s.withLength r v).busy = s.busy := by cases r <;> rfl

theorem exec_writeLo (h : Word) (idle : s.busy = false) :
    exec (r.writeLo h) s = .next (s.withLength r (setLow (s.length r) h)) := by
  have write := plainWrite_idle s (fun t => t.withLength r (setLow (t.length r) h)) idle
  cases r <;> exact write

theorem exec_writeHi (h : Word) (idle : s.busy = false) :
    exec (r.writeHi h) s = .next (s.withLength r (setHigh (s.length r) h)) := by
  have write := plainWrite_idle s (fun t => t.withLength r (setHigh (t.length r) h)) idle
  cases r <;> exact write

theorem execAll_setlen (idle : s.busy = false) : execAll (setlenInstrs r v) s = .next (s.withLength r v) := by
  rw [setlenInstrs, execAll_cons (exec_writeLo r _ idle), execAll_cons (exec_writeHi r _ (by simpa using idle)),
    State.withLength_length, State.withLength_withLength, setHigh_setLow, assemble_halves, execAll]

end Setlen

/-! CSTART and CHASH. -/

/-- What CSTART expands to (R76). -/
def cstartInstrs (fid : BitVec 4) (N S : List Byte) : List Instr :=
  setlenInstrs .nlen (BitVec.ofNat 64 N.length) ++ (setlenInstrs .slen (BitVec.ofNat 64 S.length) ++
    .startCshake fid :: (N ++ S).map fun b => .absorb (b.setWidth 32))

/-- What CHASH expands to (R76). -/
def chashInstrs (fid : BitVec 4) (N S M : List Byte) (olen : Long) : List Instr :=
  cstartInstrs fid N S ++ ((M.map fun b => .absorb (b.setWidth 32)) ++ finalInstrs olen)

theorem linesMean_startCshake (fam : FamilyArg) : LinesMean [.startCshake fam] [.startCshake fam.fid] :=
  congrArg (fun i => [Except.ok i]) (decodeCommand_startCshake fam.fid)

theorem linesMean_cstart (fam : FamilyArg) (N S : List Byte) :
    LinesMean (cstart fam N S) (cstartInstrs fam.fid N S) := by
  have h := ((((linesMean_setlen .nlen (BitVec.ofNat 64 N.length)).append
    (linesMean_setlen .slen (BitVec.ofNat 64 S.length))).append (linesMean_startCshake fam)).append
    (linesMean_update N)).append (linesMean_update S)
  simpa [cstart, cstartInstrs] using h

theorem linesMean_chash (fam : FamilyArg) (N S M : List Byte) (olen : Long) :
    LinesMean (chashLines fam N S M olen) (chashInstrs fam.fid N S M olen) := by
  rw [chashLines, List.append_assoc]
  exact (linesMean_cstart fam N S).append ((linesMean_update M).append (linesMean_final olen))

theorem rdStatus_not_mem_chash (fid : BitVec 4) (N S M : List Byte) (olen : Long) :
    Instr.rdStatus ∉ chashInstrs fid N S M olen := by
  simp [chashInstrs, cstartInstrs, setlenInstrs, finalInstrs, LengthReg.writeLo, LengthReg.writeHi]

section Chash

variable {s : State} {fid : BitVec 4} {rate : BitVec 8} {N S : List Byte}

/-- CSTART sets both lengths, then absorbs the strings. -/
theorem execAll_cstart (idle : s.busy = false) (hmem : (fid, rate) ∈ cshakeRows) (hN : N.length < 2 ^ 61)
    (hS : S.length < 2 ^ 61) :
    ∃ t, execAll (cstartInstrs fid N S) s = .next t ∧ t.busy = false ∧
      t.ctx = cshakeContext fid ⟨rate, 0, 0x1F⟩ N S ∧ t.stickyErr = s.stickyErr ∧ t.reads = s.reads := by
  obtain ⟨-, hf, hrow⟩ := cshakeRow_of_mem hmem
  have hn := execAll_setlen .nlen (BitVec.ofNat 64 N.length) idle
  have hs := execAll_setlen .slen (BitVec.ofNat 64 S.length) (s := s.withLength .nlen (BitVec.ofNat 64 N.length)) idle
  have hstrings := execAll_startCshake_strings idle
    (s := (s.withNlen (BitVec.ofNat 64 N.length)).withSlen (BitVec.ofNat 64 S.length)) hf hrow hN hS rfl rfl
  exact ⟨_, (execAll_append _ hn).trans ((execAll_append _ hs).trans hstrings), rfl, rfl, rfl, rfl⟩

/-- The digest bytes after the preamble and the message are SpongeOut (R137). -/
theorem spongeOut_cshakeContext (hmem : (fid, rate) ∈ cshakeRows) (M : List Byte) (n : Nat) :
    (if N = [] ∧ S = [] then spongeOut rate.toNat 0x1F M n
      else spongeOut rate.toNat 0x04 (preamble N S rate.toNat ++ M) n) =
      (List.range n).map (absorbBytes M (cshakeContext fid ⟨rate, 0, 0x1F⟩ N S)).digestByte := by
  have hrate := cshakeRow_rate_pos hmem
  split
  case isTrue hempty =>
    rw [cshakeContext, if_pos hempty]
    exact spongeOut_eq M n (c := beginSession fid ⟨rate, 0, 0x1F⟩) rfl rfl hrate
  case isFalse hne =>
    rw [cshakeContext_eq_preamble fid hrate hne, ← absorbBytes_append]
    exact spongeOut_eq _ n (c := cshakeStart fid rate) rfl rfl hrate

end Chash

/-- Settles O53: the run is the instructions of CHASH one after the other (`run_lines`); CSTART leaves the session with
the preamble absorbed, and the message and FINAL return SpongeOut (`spongeOut_cshakeContext`). -/
theorem cshakeRunReturnsTheSpongeOutput : Obligations.CshakeRunReturnsTheSpongeOutput := by
  intro fam N S M olen rate s hmem hN hS idle hhost
  obtain ⟨-, hf, hrow⟩ := cshakeRow_of_mem hmem
  obtain ⟨hp, hdlen, hindex⟩ := cshakeContext_xofAbsorbing hrow hf N S
  obtain ⟨t, ht, hidle, hctx, hsticky, hreads⟩ := execAll_cstart idle hmem hN hS
  rw [← hctx] at hp hdlen hindex
  obtain ⟨u, hu, hphase, hlast, hsticky', hreads'⟩ :=
    execAll_update_final (olen := olen) M hidle hp (.inl hdlen) hindex
  obtain ⟨k, ts, hrun, hend⟩ := run_lines (linesMean_chash fam N S M olen) (rdStatus_not_mem_chash _ N S M olen)
    idle hhost ((execAll_append _ ht).trans hu)
  refine ⟨k, u.withSchedule [] ts, hrun, ⟨rfl, hend⟩, hphase, hlast, hsticky'.trans hsticky, ?_⟩
  rw [spongeOut_cshakeContext hmem, List.map_map, ← hctx, ← hreads]
  exact hreads'

end Sys2Proof.Machine
end

section
/-! PROOF. The readback words and the length registers (spec/44_control.md R145 to R151): a word is put together from
fields that do not overlap, so each of them is read back whole. -/

namespace Sys2Proof.Machine

/-! A field of n bits put at bit k of a word. -/

section Fields

variable {n k j m : Nat} (x : BitVec n)

theorem extractLsb'_field (h : k + n ≤ 32) : ((x.setWidth 32 : Word) <<< k).extractLsb' k n = x := by
  apply BitVec.eq_of_getLsbD_eq
  intro b hb
  simp [hb, show k + b < 32 by omega]

theorem extractLsb'_below_field (h : j + m ≤ k) : ((x.setWidth 32 : Word) <<< k).extractLsb' j m = 0 := by
  apply BitVec.eq_of_getLsbD_eq
  intro b hb
  simp [show j + b < k by omega]

theorem extractLsb'_above_field (h : k + n ≤ j) : ((x.setWidth 32 : Word) <<< k).extractLsb' j m = 0 := by
  apply BitVec.eq_of_getLsbD_eq
  intro b _
  simp [BitVec.getLsbD_of_ge x (j + b - k) (by omega)]

end Fields

/-- STATUS by its fields, BUSY put at bit 0 (R145). -/
theorem statusWord_eq (s : State) : statusWord s =
    (BitVec.ofBool s.stickyErr).setWidth 32 <<< 5 ||| (BitVec.ofBool s.lastErr).setWidth 32 <<< 4 |||
      s.ctx.phase.code.setWidth 32 <<< 1 ||| (BitVec.ofBool s.busy).setWidth 32 <<< 0 := by
  simp [statusWord, flagWord]

theorem statusWord_fields (s : State) :
    (statusWord s).getLsbD 0 = s.busy ∧ (statusWord s).extractLsb' 1 3 = s.ctx.phase.code ∧
      (statusWord s).getLsbD 4 = s.lastErr ∧ (statusWord s).getLsbD 5 = s.stickyErr ∧
      (statusWord s).extractLsb' 6 26 = 0 := by
  rw [statusWord_eq]
  refine ⟨?busy, ?phase, ?lastErr, ?stickyErr, ?above⟩
  case busy | lastErr | stickyErr => simp
  case phase =>
    simp [-BitVec.shiftLeft_zero, BitVec.extractLsb'_or, extractLsb'_field, extractLsb'_below_field,
      extractLsb'_above_field]
  case above => simp [-BitVec.shiftLeft_zero, BitVec.extractLsb'_or, extractLsb'_above_field]

/-- INFO by its fields, RATE put at bit 0 (R146). -/
theorem infoWord_eq (c : Context) : infoWord c = c.fid.setWidth 32 <<< 24 ||| c.suffix.setWidth 32 <<< 16 |||
    c.dlen.setWidth 32 <<< 8 ||| c.rate.setWidth 32 <<< 0 := by
  simp [infoWord]

theorem infoWord_fields (c : Context) :
    (infoWord c).extractLsb' 0 8 = c.rate ∧ (infoWord c).extractLsb' 8 8 = c.dlen ∧
      (infoWord c).extractLsb' 16 8 = c.suffix ∧ (infoWord c).extractLsb' 24 4 = c.fid ∧
      (infoWord c).extractLsb' 28 4 = 0 := by
  rw [infoWord_eq]
  and_intros <;> simp [-BitVec.shiftLeft_zero, BitVec.extractLsb'_or, extractLsb'_field, extractLsb'_below_field,
    extractLsb'_above_field]

/-! The halves of a 64-bit register. -/

theorem assemble_eq_append (hi lo : Word) : assemble hi lo = hi ++ lo := by
  apply BitVec.eq_of_getLsbD_eq
  intro b hb
  rw [BitVec.getLsbD_append]
  split
  case isTrue h => simp [assemble, h, hb]
  case isFalse h => simp [assemble, h, hb, BitVec.getLsbD_of_ge lo b (by omega)]

theorem setLow_eq_append (r : Long) (v : Word) : setLow r v = r.extractLsb' 32 32 ++ v := assemble_eq_append _ _

theorem setHigh_eq_append (r : Long) (v : Word) : setHigh r v = v ++ r.extractLsb' 0 32 := assemble_eq_append _ _

theorem highHalf_append_lowHalf (r : Long) : highHalf r ++ lowHalf r = r :=
  (assemble_eq_append _ _).symm.trans (assemble_halves r)

/-! The readback accesses. -/

theorem exec_rdStatus (s : State) : exec .rdStatus s = .next (s.returnData (statusWord s)) := rfl

/-- The instruction that reads the low half of a length register. -/
def LengthReg.readLo : LengthReg → Instr
  | .nlen => .rdNlenLo
  | .slen => .rdSlenLo
  | .olen => .rdOlenLo

/-- The instruction that reads the high half. -/
def LengthReg.readHi : LengthReg → Instr
  | .nlen => .rdNlenHi
  | .slen => .rdSlenHi
  | .olen => .rdOlenHi

section Accesses

variable {s : State} (r : LengthReg)

theorem exec_readLo (idle : s.busy = false) : exec r.readLo s = .next (s.returnData (lowHalf (s.length r))) := by
  have read := plainRead_idle s (fun t => lowHalf (t.length r)) idle
  cases r <;> exact read

theorem exec_readHi (idle : s.busy = false) : exec r.readHi s = .next (s.returnData (highHalf (s.length r))) := by
  have read := plainRead_idle s (fun t => highHalf (t.length r)) idle
  cases r <;> exact read

/-- The four accesses of a length register, by the halves they read and write (R149 to R151). -/
theorem exec_length_halves (v : Word) (idle : s.busy = false) :
    exec (r.writeLo v) s = .next (s.withLength r ((s.length r).extractLsb' 32 32 ++ v)) ∧
    exec (r.writeHi v) s = .next (s.withLength r (v ++ (s.length r).extractLsb' 0 32)) ∧
    exec r.readLo s = .next (s.returnData ((s.length r).extractLsb' 0 32)) ∧
    exec r.readHi s = .next (s.returnData ((s.length r).extractLsb' 32 32)) := by
  rw [← setLow_eq_append, ← setHigh_eq_append]
  exact ⟨exec_writeLo r v idle, exec_writeHi r v idle, exec_readLo r idle, exec_readHi r idle⟩

end Accesses

/-- Settles O24: the word is STATUS, and its fields are `statusWord_fields`. -/
theorem statusReadReturnsTheStatusBits : Obligations.StatusReadReturnsTheStatusBits := by
  intro s
  obtain ⟨hbusy, hphase, hlast, hsticky, habove⟩ := statusWord_fields s
  refine ⟨statusWord s, exec_rdStatus s, hbusy, hphase.trans ?_, hlast, hsticky, habove⟩
  cases s.ctx.phase <;> rfl

/-- Settles O25: the word is INFO, and its fields are `infoWord_fields`. -/
theorem infoReadReturnsTheParameters : Obligations.InfoReadReturnsTheParameters :=
  fun s idle => ⟨infoWord s.ctx, plainRead_idle s (fun t => infoWord t.ctx) idle, infoWord_fields s.ctx⟩

/-- Settles O26: three plain reads; the halves of REM make REM (`highHalf_append_lowHalf`). -/
theorem indexAndRemReadsReturnTheCounters : Obligations.IndexAndRemReadsReturnTheCounters :=
  fun s idle => ⟨plainRead_idle s (fun t => indexWord t.ctx) idle, lowHalf s.ctx.rem, highHalf s.ctx.rem,
    highHalf_append_lowHalf s.ctx.rem, plainRead_idle s (fun t => lowHalf t.ctx.rem) idle,
    plainRead_idle s (fun t => highHalf t.ctx.rem) idle⟩

/-- Settles O27: `exec_length_halves` for each of the three registers. -/
theorem lengthAccessesReadAndWriteHalves : Obligations.LengthAccessesReadAndWriteHalves := by
  intro v s idle
  obtain ⟨nWriteLo, nWriteHi, nReadLo, nReadHi⟩ := exec_length_halves .nlen v idle
  obtain ⟨sWriteLo, sWriteHi, sReadLo, sReadHi⟩ := exec_length_halves .slen v idle
  obtain ⟨oWriteLo, oWriteHi, oReadLo, oReadHi⟩ := exec_length_halves .olen v idle
  exact ⟨nWriteLo, nWriteHi, nReadLo, nReadHi, sWriteLo, sWriteHi, sReadLo, sReadHi, oWriteLo, oWriteHi, oReadLo,
    oReadHi⟩

end Sys2Proof.Machine
end

section
/-! PROOF. Completion, and the instructions as whole accesses (spec/44_control.md R142 to R144, R152, 60_exceptions.md
R161, R162): what the completion writes, what every instruction leaves of BUSY and of the host's lists, and how many
values it returns. -/

namespace Sys2Proof.Machine

section Completion

variable {s : State} {op : Op}

/-- Everything the completion of a pending operation does (R143, R161). -/
theorem complete_of_pend (h : s.pend = some op) : complete s =
    { s with
      ctx := (perform op s.ctx).ctx
      busy := false
      pend := none
      lastErr := decide ((perform op s.ctx).verdict = .badInputData)
      stickyErr := (decide (op ≠ .init) && s.stickyErr) || decide ((perform op s.ctx).verdict = .badInputData) } := by
  unfold complete
  rw [h]
  cases op <;> apply State.eq_of_fields <;> simp [clearStickyFor]

/-- After the completion nothing is held any more. -/
theorem settle_complete (busy : s.busy = true) : settle (complete s) = settle s := by
  rw [settle_busy s busy, settle_idle (complete s) (complete_busy s)]

end Completion

section Returned

variable {i : Instr} {s t : State} {off : Nat} {v : Word}

theorem ExecEffect.busy_eq_false (eff : ExecEffect s i t) (hi : i ≠ .rdStatus) : t.busy = false := by
  cases eff with
  | status h => exact absurd h hi
  | operation | read | writeNlen | writeSlen | writeOlen | noEffect => simp

theorem ExecEffect.host_turns (eff : ExecEffect s i t) : t.host = s.host ∧ t.turns = s.turns := by
  cases eff with
  | status | operation | read | writeNlen | writeSlen | writeOlen | noEffect => simp

/-- An instruction issued by a read returns one value. -/
theorem exec_reads_of_read (henc : encode i = .read .word off) (h : exec i s = .next t) :
    ∃ w, t.reads = s.reads ++ [w] := by
  cases i
  case rdStatus => cases h; exact ⟨_, rfl⟩
  case squeeze =>
    cases h
    exact ⟨doutWord (settle s).ctx, by simp [latchSqueeze]⟩
  case rdInfo | rdIndex | rdRemLo | rdRemHi | rdNlenLo | rdNlenHi | rdSlenLo | rdSlenHi | rdOlenLo | rdOlenHi |
      noEffectRdCmd | noEffectRdDin | noEffectRd38 | noEffectRd3C =>
    cases h
    exact ⟨_, congrArg (· ++ _) (settle_reads s)⟩
  all_goals cases henc

/-- An instruction issued by a write returns none. -/
theorem exec_reads_of_write (henc : encode i = .write .word off v) (h : exec i s = .next t) : t.reads = s.reads := by
  cases i
  case init | start | startCshake | finish | reservedCmd | absorb =>
    cases h
    simp [latchInit, latchStart, latchStartCshake, latchFinish, latchReserved, latchAbsorb]
  case wrNlenLo | wrNlenHi | wrSlenLo | wrSlenHi | wrOlenLo | wrOlenHi | noEffectWrStatus | noEffectWrDout |
      noEffectWrInfo | noEffectWrIndex | noEffectWrRemLo | noEffectWrRemHi | noEffectWr38 | noEffectWr3C =>
    cases h
    exact settle_reads s
  all_goals cases henc

end Returned

/-- Settles O17: the instruction has one of the effects of `ExecEffect`; the values it returns are counted by the
direction of its access. -/
theorem everyInstructionCompletesInEveryState : Obligations.EveryInstructionCompletesInEveryState := by
  intro i s
  obtain ⟨t, ht, eff⟩ := exec_next_effect i s
  obtain ⟨hhost, hturns⟩ := eff.host_turns
  refine ⟨t, ht, eff.busy_eq_false, ?status, hhost, hturns, ?read, ?write⟩
  case status => rintro rfl; cases ht; rfl
  case read => rintro ⟨off, henc⟩; exact exec_reads_of_read henc ht
  case write => rintro ⟨off, v, henc⟩; exact exec_reads_of_write henc ht

/-- Settles O18: every meaning but that of the STATUS read begins with the wait for the completion. -/
theorem heldAccessIsPerformedOnTheCompletedState : Obligations.HeldAccessIsPerformedOnTheCompletedState := by
  intro i s busy hi
  cases i
  case rdStatus => exact absurd rfl hi
  all_goals
    -- the meaning unfolded once on both sides: its body speaks of `settle` of the state alone
    change Host.Outcome.next _ = Host.Outcome.next _
    rw [settle_complete busy]

/-- Settles O19: every field, read off `complete_of_pend`. -/
theorem completionRecordsTheOutcome : Obligations.CompletionRecordsTheOutcome := by
  intro s op h
  simp [complete_of_pend h, or_comm]

/-- Settles O22: INIT succeeds with the cleared context, and is the one operation that clears STICKY_ERR. -/
theorem initClearsTheContext : Obligations.InitClearsTheContext := by
  intro s idle
  rw [exec_operation s .init .init idle rfl, complete_issue, idle]
  rfl

/-- Settles O23: the operation raises BadInputData with the context it found. -/
theorem reservedWordWritesOnlyTheStatus : Obligations.ReservedWordWritesOnlyTheStatus := by
  intro w s idle
  rw [exec_error (op := .reserved) (c := s.ctx) idle rfl nofun rfl, idle]
  rfl

end Sys2Proof.Machine
end

section
/-! PROOF. One step, by what the host has next and whose turn it is (spec/44_control.md R140 to R143), and that BUSY
ends (70_reset_and_hazards.md R186): each step taken at BUSY = 1 completes, resets, or uses up a turn of the host. -/

namespace Sys2Proof.Machine

section Steps

variable {s : State} {i : Instr} {op : Op} {a : Access} {e : Event} {rest : List Event}

theorem hostFirst_iff (s : State) : hostFirst s = true ↔ s.turns.head? = some .host := by simp [hostFirst]

/-! At BUSY = 0. -/

theorem operationOf_withHost (i : Instr) (s : State) (es : List Event) :
    operationOf i (s.withHost es) = operationOf i s := operationOf_withSchedule s es s.turns i

theorem step_access_idle (idle : s.busy = false) (hhost : s.host = .access a :: rest) (hd : decode a = .ok i) :
    step s = hostPerforms i (s.withHost rest) := by
  rw [step_idle idle hhost]
  simp [hostStep, hd, idle]

theorem hostPerforms_plain (ho : operationOf i s = none) : hostPerforms i s = exec i s := by
  rw [hostPerforms, ho]

/-- In the engine's turn the completion follows in the same step. -/
theorem hostPerforms_engineFirst (ho : operationOf i s ≠ none) (hturn : s.turns.head? ≠ some .host) :
    hostPerforms i s = exec i s.takeTurn := by
  obtain ⟨op, ho⟩ := Option.ne_none_iff_exists'.1 ho
  simp [hostPerforms, ho, hostFirst_iff, hturn]

/-- In the host's turn the operation is only issued. -/
theorem hostPerforms_hostFirst (ho : operationOf i s = some op) (hturn : s.turns.head? = some .host) :
    hostPerforms i s = .next (issue op s.takeTurn) := by
  simp [hostPerforms, ho, hostFirst_iff, hturn]

/-! At BUSY = 1. -/

theorem step_busy_engineFirst (busy : s.busy = true) (hturn : s.turns.head? ≠ some .host) :
    step s = .next (complete s.takeTurn) := by
  obtain ⟨-, idle, -⟩ | ⟨-, heq⟩ | ⟨e, rest, -, -, hfirst, -⟩ | ⟨e, rest, -, idle, -⟩ := step_cases s
  · simp [busy] at idle
  · exact heq
  · exact absurd ((hostFirst_iff s).1 hfirst) hturn
  · simp [busy] at idle

theorem neverHeld_eq_false (hstatus : e ≠ .access (.read .word 0x04)) (hreset : e ≠ .reset)
    (hwait : e ≠ .waitIdle) : neverHeld e = false := by
  cases e with
  | access a => simpa [neverHeld] using hstatus
  | reset => exact absurd rfl hreset
  | waitIdle => exact absurd rfl hwait

theorem hostStep_statusRead_busy (busy : s.busy = true) :
    hostStep (.access (.read .word 0x04)) s = .next (s.returnData (statusWord s)) := by
  have hd : decode (.read .word 0x04) = .ok .rdStatus := rfl
  simp [hostStep, hd, busy, exec_rdStatus]

/-- What BUSY does not hold leaves BUSY = 0 or the turns as they were. -/
theorem hostStep_neverHeld_busy (busy : s.busy = true) (hnever : neverHeld e = true) :
    ∃ t, hostStep e s = .next t ∧ (t.busy = false ∨ (t.busy = true ∧ t.turns = s.turns)) := by
  cases e with
  | reset => exact ⟨_, rfl, .inl rfl⟩
  | waitIdle => exact ⟨_, hostStep_waitIdle_busy busy, .inr ⟨busy, rfl⟩⟩
  | access a =>
    obtain rfl : a = .read .word 0x04 := by simpa [neverHeld] using hnever
    exact ⟨_, hostStep_statusRead_busy busy, .inr ⟨busy, rfl⟩⟩

/-- A step at BUSY = 1 ends it, or uses up a turn of the host. -/
theorem step_busy_progress (busy : s.busy = true) :
    ∃ t, step s = .next t ∧ (t.busy = false ∨ (t.busy = true ∧ s.turns = .host :: t.turns)) := by
  obtain ⟨-, idle, -⟩ | ⟨-, heq⟩ | ⟨e, rest, -, -, hfirst, hnever, heq⟩ | ⟨e, rest, -, idle, -⟩ := step_cases s
  · simp [busy] at idle
  · exact ⟨_, heq, .inl (complete_busy _)⟩
  · obtain ⟨t, ht, hend⟩ := hostStep_neverHeld_busy (s := s.takeTurn.withHost rest) busy hnever
    refine ⟨t, heq.trans ht, hend.imp_right fun ⟨hbusy, hturns⟩ => ⟨hbusy, ?_⟩⟩
    rw [hturns]
    exact List.eq_cons_of_mem_head? ((hostFirst_iff s).1 hfirst)
  · simp [busy] at idle

end Steps

/-- Settles O11: at BUSY = 0 the step is `hostPerforms`, which is `exec` unless the operation stays pending. -/
theorem stepPerformsTheDecodedAccess : Obligations.StepPerformsTheDecodedAccess := by
  refine ⟨fun s a rest i idle hhost hd => ⟨fun ho => ?plain, fun ho hturn => ?operation⟩, fun s a i hd => ?withAccess⟩
  case plain =>
    rw [step_access_idle idle hhost hd, hostPerforms_plain (by rwa [operationOf_withHost])]
    rfl
  case operation =>
    have ho' : operationOf i (s.withHost rest) ≠ none := by rwa [operationOf_withHost]
    rw [step_access_idle idle hhost hd, hostPerforms_engineFirst ho' hturn]
    rfl
  case withAccess =>
    have hstep := step_access_idle (s := s.withAccess a) (settle_busy_false s) rfl hd
    have hstate : (s.withAccess a).withHost s.host = { settle s with turns := [] } := by
      rw [← settle_host s]
      rfl
    rw [hstep, hstate]
    by_cases ho : operationOf i { settle s with turns := [] } = none
    · exact hostPerforms_plain ho
    · exact hostPerforms_engineFirst ho nofun

/-- Settles O12: in the host's turn the step is the issue, and the access as a whole is the issue and the completion. -/
theorem issueThenCompletionEqualsTheWholeAccess : Obligations.IssueThenCompletionEqualsTheWholeAccess := by
  intro s a rest ts i op idle hhost hturns hd ho
  have hstate : (s.withHost rest).takeTurn = { s with host := rest, turns := ts } := by
    rw [State.takeTurn, State.withHost_turns, hturns]
    rfl
  have hissue : step s = .next (issue op { s with host := rest, turns := ts }) := by
    rw [step_access_idle idle hhost hd, hostPerforms_hostFirst (op := op) (by rwa [operationOf_withHost])
      (by simp [hturns]), hstate]
  have hwhole := exec_operation { s with host := rest, turns := ts } op i idle
    ((operationOf_withSchedule s rest ts i).trans ho)
  exact ⟨_, hissue, issue_busy .., issue_pend .., issue_ctx .., issue_nlen .., issue_slen .., issue_olen ..,
    issue_lastErr .., issue_stickyErr .., hwhole⟩

/-- Settles O13: nothing to do, the engine's turn, or a held event; in each case the step is the completion. -/
theorem engineCompletesUnlessAnUnheldAccessMovesFirst : Obligations.EngineCompletesUnlessAnUnheldAccessMovesFirst := by
  rintro s busy (hhost | hturn | ⟨e, rest, hhost, hstatus, hreset, hwait⟩)
  · exact step_busy_held busy (by simp [hhost])
  · exact step_busy_engineFirst busy hturn
  · exact step_busy_held busy (by simp [hhost, neverHeld_eq_false hstatus hreset hwait])

/-- Settles O14: the read is the host's event, and its word is STATUS of the state before the completion. -/
theorem statusReadIsNotHeldByBusy : Obligations.StatusReadIsNotHeldByBusy := by
  intro s rest ts busy hhost hturns
  obtain ⟨hbusy, hfields⟩ := statusWord_fields s
  refine ⟨statusWord s, ?_, hbusy.trans busy, hfields⟩
  have hts : ts = s.turns.tail := by rw [hturns, List.tail_cons]
  rw [step_busy_neverHeld busy (by simp [hostFirst_iff, hturns]) hhost rfl,
    hostStep_statusRead_busy (s := s.takeTurn.withHost rest) busy, hts]
  rfl

/-- BUSY ends by induction on the turns that are left. -/
theorem busy_ends (ts : List Turn) : ∀ s : State, s.busy = true → s.turns = ts →
    ∃ k t, k ≤ ts.length + 1 ∧ Host.Core.run core k s = .next t ∧ State.busy t = false := by
  induction ts with
  | nil =>
    intro s busy hturns
    obtain ⟨t, ht, hend | ⟨-, hmore⟩⟩ := step_busy_progress busy
    · exact ⟨1, t, le_rfl, run_succ (M := core) ht 0, hend⟩
    · simp [hturns] at hmore
  | cons turn ts ih =>
    intro s busy hturns
    obtain ⟨t, ht, hend | ⟨hbusy, hmore⟩⟩ := step_busy_progress busy
    · exact ⟨1, t, by omega, run_succ (M := core) ht 0, hend⟩
    · obtain ⟨-, hrest⟩ := List.cons.inj (hturns.symm.trans hmore)
      obtain ⟨k, u, hk, hrun, hu⟩ := ih t hbusy hrest.symm
      exact ⟨k + 1, u, by simpa using hk, (run_succ (M := core) ht k).trans hrun, hu⟩

/-- Settles O20: `busy_ends` from the state's own turns. -/
theorem busyEndsAfterFinitelyManySteps : Obligations.BusyEndsAfterFinitelyManySteps :=
  fun s busy => busy_ends s.turns s busy rfl

end Sys2Proof.Machine
end

section
/-! PROOF. S steers nothing but S and the bytes SQUEEZE returns (spec/70_reset_and_hazards.md R184, 40_permutation.md
R93): on contexts that differ only in S an operation runs the same changes of S (R91), and all else it leaves is the
same. -/

namespace Sys2Proof.Machine

/-- The context c with another S. -/
def Context.withLanes (c : Context) (A : Lanes) : Context := { c with lanes := A }

/-- A result that differs only in S. -/
def Result.withLanes (r : Result) (A : Lanes) : Result := ⟨r.ctx.withLanes A, r.verdict⟩

/-! The preamble. -/

/-- The changes of S in the first test of preamble_advance: the encoded length of S (43_cshake.md R135). -/
def advanceFromNSteps (c : Context) : List LaneStep :=
  if c.phase = .preN ∧ c.rem = 0 then absorbBytesSteps (leftEncode (8 * c.lslen.toNat)) c else []

/-- The changes of S in the second test: the filled block. -/
def advanceFromSSteps (c : Context) : List LaneStep := if c.phase = .preS ∧ c.rem = 0 then padSteps c else []

theorem advanceSteps_eq (c : Context) :
    advanceSteps c = advanceFromNSteps c ++ advanceFromSSteps (advanceFromN c) := rfl

section Preamble

variable (A : Lanes) (b : Byte) (c : Context)

theorem padToBoundary_withLanes :
    padToBoundary (c.withLanes A) = (padToBoundary c).withLanes (runLaneSteps (padSteps c) A) := by
  by_cases h : c.index ≠ 0
  · rw [padToBoundary, padToBoundary, padSteps, if_pos h, if_pos h]
    exact if_pos h
  · rw [padToBoundary, padToBoundary, padSteps, if_neg h, if_neg h]
    exact if_neg h

theorem advanceFromN_withLanes :
    advanceFromN (c.withLanes A) = (advanceFromN c).withLanes (runLaneSteps (advanceFromNSteps c) A) := by
  by_cases h : c.phase = .preN ∧ c.rem = 0
  · rw [advanceFromN, advanceFromN, advanceFromNSteps, if_pos h, if_pos h, Context.withLanes, absorbBytes_withLanes]
    exact if_pos h
  · rw [advanceFromN, advanceFromN, advanceFromNSteps, if_neg h, if_neg h]
    exact if_neg h

theorem advanceFromS_withLanes :
    advanceFromS (c.withLanes A) = (advanceFromS c).withLanes (runLaneSteps (advanceFromSSteps c) A) := by
  by_cases h : c.phase = .preS ∧ c.rem = 0
  · rw [advanceFromS, advanceFromS, advanceFromSSteps, if_pos h, if_pos h, padToBoundary_withLanes]
    exact if_pos h
  · rw [advanceFromS, advanceFromS, advanceFromSSteps, if_neg h, if_neg h]
    exact if_neg h

theorem preambleAdvance_withLanes :
    preambleAdvance (c.withLanes A) = (preambleAdvance c).withLanes (runLaneSteps (advanceSteps c) A) := by
  rw [preambleAdvance, advanceFromN_withLanes, advanceFromS_withLanes, advanceSteps_eq, runLaneSteps_append]
  rfl

theorem advanceSteps_withLanes : advanceSteps (c.withLanes A) = advanceSteps c := by
  have hN : advanceFromNSteps (c.withLanes A) = advanceFromNSteps c := by
    rw [advanceFromNSteps, Context.withLanes, absorbBytesSteps_withLanes]
    rfl
  rw [advanceSteps_eq, advanceSteps_eq, advanceFromN_withLanes, hN]
  rfl

theorem preambleByte_withLanes :
    preambleByte b (c.withLanes A) = (preambleByte b c).withLanes (runLaneSteps (preambleByteSteps b c) A) := by
  rw [preambleByte, Context.withLanes, absorbByte_withLanes, preambleByteSteps, runLaneSteps_append]
  exact preambleAdvance_withLanes _ { absorbByte b c with rem := (absorbByte b c).rem - 1 }

theorem preambleByteSteps_eq : preambleByteSteps b c =
    absorbByteSteps b c ++ advanceSteps { absorbByte b c with rem := (absorbByte b c).rem - 1 } := rfl

theorem preambleByteSteps_withLanes : preambleByteSteps b (c.withLanes A) = preambleByteSteps b c := by
  rw [preambleByteSteps, Context.withLanes, absorbByte_withLanes, absorbByteSteps_withLanes]
  exact congrArg (absorbByteSteps b c ++ ·)
    (advanceSteps_withLanes _ { absorbByte b c with rem := (absorbByte b c).rem - 1 })

theorem preambleAdvance_lanes : (preambleAdvance c).lanes = runLaneSteps (advanceSteps c) c.lanes :=
  congrArg Context.lanes (preambleAdvance_withLanes c.lanes c)

/-- START_CSHAKE's preamble makes of S what its list of changes makes of it (43_cshake.md R129). -/
theorem beginPreamble_lanes (nlen slen : Long) :
    (beginPreamble c nlen slen).lanes = runLaneSteps (beginPreambleSteps c nlen slen) c.lanes := by
  rw [beginPreamble, preambleAdvance_lanes, beginPreambleSteps, runLaneSteps_append]
  exact congrArg (runLaneSteps (advanceSteps _)) (absorbBytes_lanes _ { c with suffix := 0x04 })

end Preamble

/-! START_CSHAKE. -/

/-- Everything START_CSHAKE does to S: it clears S, and where it succeeds for strings it runs the preamble. -/
theorem startCshake_cases (fid : BitVec 4) (nlen slen : Long) (c : Context) :
    ((performStartCshake fid nlen slen).ctx.lanes = Lanes.zero ∧
      laneSteps (.startCshake fid nlen slen) c = [.clear]) ∨
    (∃ row, lookupFamily fid = some row ∧ ¬ (nlen = 0 ∧ slen = 0) ∧
      performStartCshake fid nlen slen = succeed (beginPreamble (beginSession fid row) nlen slen) ∧
      laneSteps (.startCshake fid nlen slen) c = .clear :: beginPreambleSteps (beginSession fid row) nlen slen) := by
  by_cases hbad : isCshake fid = false ∨ 2 ^ 61 ≤ nlen.toNat ∨ 2 ^ 61 ≤ slen.toNat
  · have hfail : performStartCshake fid nlen slen = raiseBadInput clearContext := if_pos hbad
    exact .inl ⟨by rw [hfail]; rfl, by rw [laneSteps, hfail, if_pos (.inl rfl)]⟩
  · have ⟨hf, hlen⟩ := not_or.1 hbad
    have ⟨hn, hs⟩ := not_or.1 hlen
    rw [Bool.not_eq_false] at hf
    obtain ⟨row, hrow⟩ : ∃ row, lookupFamily fid = some row := by
      have all : ∀ fid, isCshake fid = true → (lookupFamily fid).isSome := by decide
      exact Option.isSome_iff_exists.1 (all fid hf)
    have hperform := performStartCshake_legal (nlen := nlen) (slen := slen) hf hrow (by omega) (by omega)
    by_cases hempty : nlen = 0 ∧ slen = 0
    · rw [if_pos hempty] at hperform
      exact .inl ⟨by rw [hperform]; rfl, by rw [laneSteps, if_pos (.inr hempty)]⟩
    · rw [if_neg hempty] at hperform
      refine .inr ⟨row, hrow, hempty, hperform, ?_⟩
      rw [laneSteps, hperform, if_neg (by simpa only [succeed, reduceCtorEq, false_or] using hempty), hrow]
      exact congrArg (fun r => LaneStep.clear :: beginPreambleSteps (beginSession fid r) nlen slen)
        (lookupFamily_cshake_row hf hrow)

/-! ABSORB. -/

section Absorb

variable (A : Lanes) (b b' : Byte) {c : Context}

theorem absorb_phase_cases (p : Phase) :
    p = .absorbing ∨ (p = .preN ∨ p = .preS) ∨ (p = .initial ∨ p = .squeezing ∨ p = .finalized) := by
  cases p <;> decide

theorem performAbsorb_absorbing (hp : c.phase = .absorbing) : performAbsorb b c = succeed (absorbByte b c) := by
  rw [performAbsorb, hp]

theorem performAbsorb_preamble (hp : c.phase = .preN ∨ c.phase = .preS) :
    performAbsorb b c = succeed (preambleByte b c) := by
  rcases hp with hp | hp <;> rw [performAbsorb, hp]

theorem performAbsorb_fails (hp : c.phase = .initial ∨ c.phase = .squeezing ∨ c.phase = .finalized) :
    performAbsorb b c = raiseBadInput c := by
  rcases hp with hp | hp | hp <;> rw [performAbsorb, hp]

theorem laneSteps_absorb_absorbing (hp : c.phase = .absorbing) : laneSteps (.absorb b) c = absorbByteSteps b c := by
  rw [laneSteps, hp]

theorem laneSteps_absorb_preamble (hp : c.phase = .preN ∨ c.phase = .preS) :
    laneSteps (.absorb b) c = preambleByteSteps b c := by
  rcases hp with hp | hp <;> rw [laneSteps, hp]

theorem laneSteps_absorb_fails (hp : c.phase = .initial ∨ c.phase = .squeezing ∨ c.phase = .finalized) :
    laneSteps (.absorb b) c = [] := by
  rcases hp with hp | hp | hp <;> rw [laneSteps, hp]

theorem performAbsorb_withLanes (c : Context) :
    performAbsorb b (c.withLanes A) = (performAbsorb b c).withLanes (runLaneSteps (laneSteps (.absorb b) c) A) := by
  rcases absorb_phase_cases c.phase with hp | hp | hp
  · rw [performAbsorb_absorbing (c := c.withLanes A) b hp, performAbsorb_absorbing b hp,
      laneSteps_absorb_absorbing b hp]
    exact congrArg succeed (absorbByte_withLanes A b c)
  · rw [performAbsorb_preamble (c := c.withLanes A) b hp, performAbsorb_preamble b hp, laneSteps_absorb_preamble b hp]
    exact congrArg succeed (preambleByte_withLanes A b c)
  · rw [performAbsorb_fails (c := c.withLanes A) b hp, performAbsorb_fails b hp, laneSteps_absorb_fails b hp]
    rfl

/-- Absorbing another byte leaves a context that differs only in S. -/
theorem absorbByte_eq_withLanes (c : Context) : ∃ A, absorbByte b' c = (absorbByte b c).withLanes A := by
  by_cases h : c.index + 1 = c.rate
  · rw [absorbByte_eq, absorbByte_eq, if_pos h, if_pos h]
    exact ⟨_, rfl⟩
  · rw [absorbByte_eq, absorbByte_eq, if_neg h, if_neg h]
    exact ⟨_, rfl⟩

/-- A string byte likewise. -/
theorem preambleByte_eq_withLanes (c : Context) : ∃ A, preambleByte b' c = (preambleByte b c).withLanes A := by
  obtain ⟨A, hA⟩ := absorbByte_eq_withLanes b b' c
  have hnext := preambleAdvance_withLanes A { absorbByte b c with rem := (absorbByte b c).rem - 1 }
  refine ⟨_, Eq.trans ?_ hnext⟩
  rw [preambleByte, hA]
  rfl

/-- ABSORB of another byte leaves a result that differs only in S. -/
theorem performAbsorb_eq_withLanes (c : Context) : ∃ A, performAbsorb b' c = (performAbsorb b c).withLanes A := by
  rcases absorb_phase_cases c.phase with hp | hp | hp
  · obtain ⟨A, hA⟩ := absorbByte_eq_withLanes b b' c
    exact ⟨A, by rw [performAbsorb_absorbing b hp, performAbsorb_absorbing b' hp, hA]; rfl⟩
  · obtain ⟨A, hA⟩ := preambleByte_eq_withLanes b b' c
    exact ⟨A, by rw [performAbsorb_preamble b hp, performAbsorb_preamble b' hp, hA]; rfl⟩
  · exact ⟨c.lanes, by rw [performAbsorb_fails b hp, performAbsorb_fails b' hp]; rfl⟩

end Absorb

/-! Every operation. -/

section FinishSqueeze

variable (A : Lanes) (c : Context) (olen : Long)

/-- FINISH succeeds: the session is ABSORBING, and OLEN is legal, any value for an XOF and the digest length otherwise
(42_sponge.md R112, 60_exceptions.md R163). -/
def Context.LegalFinish (c : Context) (olen : Long) : Prop :=
  c.phase = .absorbing ∧ (c.dlen = 0 ∨ olen = c.dlen.setWidth 64)

theorem performFinish_legal {c : Context} {olen : Long} (h : c.LegalFinish olen) :
    performFinish olen c = succeed (finishContext olen c) := by
  obtain ⟨hp, hlen⟩ := h
  have hlegal : ¬ (c.dlen ≠ 0 ∧ olen ≠ c.dlen.setWidth 64) := by tauto
  rw [performFinish, if_neg (by simp [hp]), if_neg (by simp [hp]), if_neg hlegal]
  rfl

/-- A FINISH that fails leaves S, whatever S holds. -/
theorem performFinish_illegal {c : Context} {olen : Long} (h : ¬ c.LegalFinish olen) :
    ∃ d : Context, ∀ A, performFinish olen (c.withLanes A) = raiseBadInput (d.withLanes A) := by
  by_cases hinitial : c.phase = .initial
  · exact ⟨c, fun A => if_pos hinitial⟩
  by_cases hp : c.phase = .absorbing
  · have hillegal : c.dlen ≠ 0 ∧ olen ≠ c.dlen.setWidth 64 := not_or.1 fun hlen => h ⟨hp, hlen⟩
    exact ⟨{ c with phase := .finalized, rem := 0 }, fun A =>
      (if_neg hinitial).trans <| (if_neg (not_not.2 hp)).trans (if_pos hillegal)⟩
  · exact ⟨{ c with phase := .finalized, rem := 0, lslen := 0 }, fun A => (if_neg hinitial).trans (if_pos hp)⟩

theorem laneSteps_finish_legal {c : Context} {olen : Long} (h : c.LegalFinish olen) :
    laneSteps (.finish olen) c = [.xor c.index.toNat c.suffix, .xor (c.rate.toNat - 1) 0x80, .permute] := by
  rw [laneSteps, performFinish_legal h]
  rfl

theorem laneSteps_finish_illegal {c : Context} {olen : Long} (h : ¬ c.LegalFinish olen) :
    laneSteps (.finish olen) c = [] := by
  obtain ⟨d, hd⟩ := performFinish_illegal h
  have hfail : performFinish olen c = raiseBadInput (d.withLanes c.lanes) := hd c.lanes
  rw [laneSteps, hfail]
  rfl

theorem performFinish_withLanes :
    performFinish olen (c.withLanes A) =
      (performFinish olen c).withLanes (runLaneSteps (laneSteps (.finish olen) c) A) := by
  by_cases h : c.LegalFinish olen
  · have hA : (c.withLanes A).LegalFinish olen := h
    rw [performFinish_legal h, performFinish_legal hA, laneSteps_finish_legal h]
    rfl
  · obtain ⟨d, hd⟩ := performFinish_illegal h
    have hfail : performFinish olen c = raiseBadInput (d.withLanes c.lanes) := hd c.lanes
    rw [hd, hfail, laneSteps_finish_illegal h]
    rfl

theorem advanceOutput_withLanes : advanceOutput (c.withLanes A) =
    (advanceOutput c).withLanes (if c.index + 1 = c.rate ∧ c.rem - 1 ≠ 0 then keccakF A else A) := by
  rw [advanceOutput_eq, advanceOutput_eq]
  rfl

theorem performSqueeze_withLanes :
    performSqueeze (c.withLanes A) = (performSqueeze c).withLanes (runLaneSteps (laneSteps .squeeze c) A) := by
  by_cases hp : c.phase = .squeezing
  · have hperform : performSqueeze (c.withLanes A) = succeed (advanceOutput (c.withLanes A)) := if_pos hp
    rw [hperform, performSqueeze, if_pos hp, advanceOutput_withLanes, laneSteps]
    by_cases hedge : c.index + 1 = c.rate ∧ c.rem - 1 ≠ 0
    · rw [if_pos hedge, if_pos ⟨hp, hedge⟩]
      rfl
    · rw [if_neg hedge, if_neg fun h => hedge h.2]
      rfl
  · have hperform : performSqueeze (c.withLanes A) = raiseBadInput (c.withLanes A) := if_neg hp
    rw [hperform, performSqueeze, if_neg hp, laneSteps, if_neg fun h => hp h.1]
    rfl

end FinishSqueeze

/-- S after an operation is what the operation's list of changes makes of S; all else it leaves does not depend on S. -/
theorem perform_withLanes (op : Op) (c : Context) (A : Lanes) :
    perform op (c.withLanes A) = (perform op c).withLanes (runLaneSteps (laneSteps op c) A) := by
  cases op with
  | init => rfl
  | start fid =>
    show performStart fid = (performStart fid).withLanes Lanes.zero
    unfold performStart
    split <;> rfl
  | startCshake fid nlen slen =>
    show performStartCshake fid nlen slen = (performStartCshake fid nlen slen).withLanes _
    obtain ⟨hlanes, hsteps⟩ | ⟨row, -, -, hperform, hsteps⟩ := startCshake_cases fid nlen slen c
    · rw [hsteps, runLaneSteps_cons, runLaneSteps_nil, apply_clear, ← hlanes]
      rfl
    · rw [hperform, hsteps, runLaneSteps_cons, apply_clear]
      have hlanes := beginPreamble_lanes (beginSession fid row) nlen slen
      exact congrArg (fun B => succeed ((beginPreamble (beginSession fid row) nlen slen).withLanes B)) hlanes
  | finish olen => exact performFinish_withLanes A c olen
  | absorb b => exact performAbsorb_withLanes A b c
  | squeeze => exact performSqueeze_withLanes A c
  | reserved => rfl

/-- The list of an operation's changes of S does not depend on S. -/
theorem laneSteps_withLanes (op : Op) (c : Context) (A : Lanes) : laneSteps op (c.withLanes A) = laneSteps op c := by
  cases op with
  | init | start | startCshake | squeeze | reserved => rfl
  | finish olen =>
    by_cases h : c.LegalFinish olen
    · have hA : (c.withLanes A).LegalFinish olen := h
      rw [laneSteps_finish_legal h, laneSteps_finish_legal hA]
      rfl
    · have hA : ¬ (c.withLanes A).LegalFinish olen := h
      rw [laneSteps_finish_illegal h, laneSteps_finish_illegal hA]
  | absorb b =>
    rcases absorb_phase_cases c.phase with hp | hp | hp
    · rw [laneSteps_absorb_absorbing b hp, laneSteps_absorb_absorbing (c := c.withLanes A) b hp]
      exact absorbByteSteps_withLanes A b c
    · rw [laneSteps_absorb_preamble b hp, laneSteps_absorb_preamble (c := c.withLanes A) b hp,
        preambleByteSteps_withLanes]
    · rw [laneSteps_absorb_fails b hp, laneSteps_absorb_fails (c := c.withLanes A) b hp]

end Sys2Proof.Machine
end

section
/-! PROOF. Whole accesses on states that differ only in S (70_reset_and_hazards.md R184), and the latency of an
operation, which no secret decides (R185). -/

namespace Sys2Proof.Machine

/-! Accesses. -/

/-- The state s with another S. -/
def State.withLanes (s : State) (A : Lanes) : State := s.withContext (s.ctx.withLanes A)

section Accesses

variable {s t : State} (A : Lanes)

theorem complete_withLanes (s : State) : ∃ B, complete (s.withLanes A) = (complete s).withLanes B := by
  cases hp : s.pend with
  | none => exact ⟨A, by rw [complete, complete, State.withLanes, State.withContext_pend, hp]; rfl⟩
  | some op =>
    have hA : (s.withLanes A).pend = some op := hp
    have hperform : perform op (s.withLanes A).ctx = _ := perform_withLanes op s.ctx A
    exact ⟨_, by rw [complete_of_pend hp, complete_of_pend hA, hperform]; rfl⟩

theorem settle_withLanes (s : State) : ∃ B, settle (s.withLanes A) = (settle s).withLanes B := by
  cases hb : s.busy with
  | true => rw [settle_busy s hb, settle_busy (s.withLanes A) hb]; exact complete_withLanes A s
  | false => rw [settle_idle s hb, settle_idle (s.withLanes A) hb]; exact ⟨A, rfl⟩

theorem issue_withLanes {op : Op} (hop : op ≠ .squeeze) (s : State) :
    issue op (s.withLanes A) = (issue op s).withLanes A := by
  cases op with
  | squeeze => exact absurd rfl hop
  | init | start | startCshake | finish | absorb | reserved => rfl

theorem operate_withLanes {latchOf : State → Op} (h : operate latchOf s = .next t)
    (hlatch : ∀ s B, latchOf (State.withLanes s B) = latchOf s) (hop : ∀ s, latchOf s ≠ .squeeze) :
    ∃ B, operate latchOf (s.withLanes A) = .next (t.withLanes B) := by
  obtain ⟨B, hB⟩ := settle_withLanes A s
  obtain ⟨C, hC⟩ := complete_withLanes B (issue (latchOf (settle s)) (settle s))
  cases h
  exact ⟨C, by rw [operate, hB, hlatch, issue_withLanes B (hop _), hC]⟩

/-- No instruction but SQUEEZE returns a value that S decides, or does anything else that S decides but to S. -/
theorem exec_withLanes {i : Instr} (hi : i ≠ .squeeze) (h : exec i s = .next t) :
    ∃ B, exec i (s.withLanes A) = .next (t.withLanes B) := by
  obtain ⟨B, hB⟩ := settle_withLanes A s
  cases i
  case squeeze => exact absurd rfl hi
  case rdStatus => cases h; exact ⟨A, rfl⟩
  case init | start | startCshake | finish | reservedCmd | absorb =>
    exact operate_withLanes A h (fun _ _ => rfl) nofun
  case noEffectWrStatus | noEffectWrDout | noEffectWrInfo | noEffectWrIndex | noEffectWrRemLo | noEffectWrRemHi |
      noEffectWr38 | noEffectWr3C =>
    cases h
    exact ⟨B, congrArg Host.Outcome.next hB⟩
  all_goals
    -- a value returned or a register written: the body speaks of `settle` of the state alone
    cases h
    refine ⟨B, ?_⟩
    change Host.Outcome.next _ = _
    rw [hB]
    rfl

/-- SQUEEZE too, but for the value it returns. -/
theorem exec_squeeze_withLanes (h : exec .squeeze s = .next t) :
    ∃ B w, exec .squeeze (s.withLanes A) = .next { t.withLanes B with reads := s.reads ++ [w] } := by
  obtain ⟨B, hB⟩ := settle_withLanes A s
  have hexec (s : State) : exec .squeeze s = .next (complete (issue .squeeze (settle s))) := rfl
  have hperform : perform .squeeze ((settle s).withLanes B).ctx = _ := perform_withLanes .squeeze (settle s).ctx B
  rw [hexec, Host.Outcome.next.injEq] at h
  refine ⟨runLaneSteps (laneSteps .squeeze (settle s).ctx) B, doutWord ((settle s).withLanes B).ctx, ?_⟩
  rw [hexec, hB, ← h, complete_issue, complete_issue, hperform, ← settle_reads s]
  rfl

/-- The byte absorbed decides nothing but S. -/
theorem exec_absorb_byte (v v' : Word) (h : exec (.absorb v) s = .next t) :
    ∃ B, exec (.absorb v') s = .next (t.withLanes B) := by
  have hexec (v : Word) : exec (.absorb v) s = .next (complete (issue (.absorb (dinByte v)) (settle s))) := rfl
  obtain ⟨B, hB⟩ := performAbsorb_eq_withLanes (dinByte v) (dinByte v') (settle s).ctx
  have hperform : perform (.absorb (dinByte v')) (settle s).ctx =
      (perform (.absorb (dinByte v)) (settle s).ctx).withLanes B := hB
  rw [hexec, Host.Outcome.next.injEq] at h
  refine ⟨B, ?_⟩
  rw [hexec, ← h, complete_issue, complete_issue, hperform]
  rfl

end Accesses

/-! Latencies. -/

/-- The KeccakF of absorb_byte are counted by INDEX and RATE alone (42_sponge.md R105). -/
theorem absorbByteSteps_count (b : Byte) (c : Context) :
    (absorbByteSteps b c).count .permute = if c.index + 1 = c.rate then 1 else 0 := by
  rw [absorbByteSteps, List.count_cons_of_ne (by simp)]
  split <;> rfl

theorem preambleByteSteps_count_byte (b b' : Byte) (c : Context) :
    (preambleByteSteps b' c).count .permute = (preambleByteSteps b c).count .permute := by
  obtain ⟨A, hA⟩ := absorbByte_eq_withLanes b b' c
  rw [preambleByteSteps_eq, preambleByteSteps_eq, List.count_append, List.count_append, absorbByteSteps_count,
    absorbByteSteps_count, hA]
  exact congrArg (fun ks => _ + List.count .permute ks)
    (advanceSteps_withLanes A { absorbByte b c with rem := (absorbByte b c).rem - 1 })

theorem keccakRuns_absorb_byte (b b' : Byte) (c : Context) : keccakRuns (.absorb b') c = keccakRuns (.absorb b) c := by
  rw [keccakRuns, keccakRuns]
  rcases absorb_phase_cases c.phase with hp | hp | hp
  · rw [laneSteps_absorb_absorbing b hp, laneSteps_absorb_absorbing b' hp, absorbByteSteps_count,
      absorbByteSteps_count]
  · rw [laneSteps_absorb_preamble b hp, laneSteps_absorb_preamble b' hp, preambleByteSteps_count_byte b b']
  · rw [laneSteps_absorb_fails b hp, laneSteps_absorb_fails b' hp]

/-- Settles O57: one lemma for each kind of access, and the number of KeccakF for the latencies. -/
theorem secretsSteerNothingButTheOutputBytes : Obligations.SecretsSteerNothingButTheOutputBytes := by
  refine fun s L => ⟨fun i t hi h => exec_withLanes L hi h, fun t h => exec_squeeze_withLanes L h,
    fun v v' t h => exec_absorb_byte v v' h, fun op => ?lanes, fun b b' => ?byte⟩
  case lanes =>
    have hsteps := laneSteps_withLanes op s.ctx L
    exact congrArg (fun ks => baseLatency op + Config.tPerm * List.count .permute ks) hsteps
  case byte => rw [latency, latency, keccakRuns_absorb_byte b' b]; rfl

end Sys2Proof.Machine
end

section
/-! PROOF. How many KeccakF each operation runs (70_reset_and_hazards.md R185, 40_permutation.md R91). Over a string
absorb_byte runs one for each rate block it fills, and an encoded length is far shorter than a block. -/

namespace Sys2Proof.Machine

/-! absorb_byte over a string. -/

/-- absorb_byte's changes of S are fixed by INDEX and RATE. -/
theorem absorbBytesSteps_congr (bs : List Byte) {c d : Context} (hrate : c.rate = d.rate) (hindex : c.index = d.index) :
    absorbBytesSteps bs c = absorbBytesSteps bs d := by
  induction bs generalizing c d with
  | nil => rfl
  | cons b bs ih =>
    rw [absorbBytesSteps, absorbBytesSteps, absorbByteSteps, absorbByteSteps, hrate, hindex,
      
      ih (c := absorbByte b c) (d := absorbByte b d) (by simp [hrate]) (by simp [hrate, hindex])]

theorem absorbBytesSteps_append (as bs : List Byte) (c : Context) :
    absorbBytesSteps (as ++ bs) c = absorbBytesSteps as c ++ absorbBytesSteps bs (absorbBytes as c) := by
  induction as generalizing c with
  | nil => rfl
  | cons a as ih => rw [List.cons_append, absorbBytesSteps, ih, absorbBytesSteps, absorbBytes_cons, List.append_assoc]

/-- One KeccakF for each block that the string fills. -/
theorem absorbBytesSteps_count (bs : List Byte) {c : Context} (h : c.index < c.rate) :
    (absorbBytesSteps bs c).count .permute = (c.index.toNat + bs.length) / c.rate.toNat := by
  induction bs generalizing c with
  | nil => exact (Nat.div_eq_of_lt h).symm
  | cons b bs ih =>
    rw [absorbBytesSteps, List.count_append, absorbByteSteps_count, ih (absorbByte_index_lt b c h), absorbByte_rate,
      absorbByte_index, List.length_cons]
    by_cases hedge : c.index + 1 = c.rate
    · have hnext : c.index.toNat + (bs.length + 1) = bs.length + c.rate.toNat := by bv_omega
      have hpos : 0 < c.rate.toNat := by bv_omega
      rw [if_pos hedge, if_pos hedge, hnext, Nat.add_div_right _ hpos]
      simp [Nat.add_comm]
    · have hnext : (c.index + 1).toNat = c.index.toNat + 1 := by bv_omega
      rw [if_neg hedge, if_neg hedge, hnext, Nat.zero_add, Nat.add_assoc, Nat.add_comm 1]

/-- The rate of a session is at least 72 bytes (41_family_table.md R100). -/
theorem Context.InSession.rate_ge {c : Context} (h : c.InSession) : 72 ≤ c.rate.toNat := by
  obtain ⟨row, hrow, hparams⟩ := Option.map_eq_some_iff.1 h.1
  obtain ⟨hrate, -⟩ := Prod.mk.inj hparams
  rw [← hrate]
  exact (lookupFamily_rate c.fid row hrow).1

/-! The preamble. -/

section Preamble

variable {c : Context}

theorem advanceSteps_of_rem_ne (h : c.rem ≠ 0) : advanceSteps c = [] := by
  have hN : advanceFromN c = c := if_neg fun hw => h hw.2
  rw [advanceSteps_eq, hN, advanceFromNSteps, advanceFromSSteps, if_neg fun hw => h hw.2, if_neg fun hw => h hw.2]
  rfl

theorem advanceSteps_of_preN (hp : c.phase = .preN) (hr : c.rem = 0) (hl : c.lslen ≠ 0) :
    advanceSteps c = absorbBytesSteps (leftEncode (8 * c.lslen.toNat)) c := by
  have hrem : (advanceFromN c).rem = c.lslen := by rw [advanceFromN, if_pos ⟨hp, hr⟩]
  rw [advanceSteps_eq, advanceFromNSteps, advanceFromSSteps, if_pos ⟨hp, hr⟩,
    if_neg fun hw => hl (hrem.symm.trans hw.2), List.append_nil]

theorem advanceFromSSteps_count_le (c : Context) : (advanceFromSSteps c).count .permute ≤ 1 := by
  rw [advanceFromSSteps, padSteps]
  split_ifs <;> decide

/-- preamble_advance runs at most one KeccakF beside those of an encoded length. -/
theorem advanceSteps_count_le (c : Context) :
    ∃ bs : List Byte, bs.length ≤ 9 ∧
      (advanceSteps c).count .permute ≤ (absorbBytesSteps bs c).count .permute + 1 := by
  have hpad := advanceFromSSteps_count_le (advanceFromN c)
  rw [advanceSteps_eq, List.count_append, advanceFromNSteps]
  split_ifs
  · exact ⟨_, (leftEncode_length (8 * c.lslen.toNat)).2, by omega⟩
  · exact ⟨[], by simp, by simpa [absorbBytesSteps] using hpad⟩

/-- A string byte fills at most one block together with the encoded length after it, and the block may be filled up. -/
theorem preambleByteSteps_count_le (b : Byte) (h : c.InSession) : (preambleByteSteps b c).count .permute ≤ 2 := by
  obtain ⟨bs, hlen, hadvance⟩ := advanceSteps_count_le { absorbByte b c with rem := (absorbByte b c).rem - 1 }
  have hbyte : absorbBytesSteps bs { absorbByte b c with rem := (absorbByte b c).rem - 1 } =
      absorbBytesSteps bs (absorbByte b c) := absorbBytesSteps_congr bs rfl rfl
  have hblocks : (absorbBytesSteps (b :: bs) c).count .permute ≤ 1 := by
    have hrate := h.rate_ge
    have hindex : c.index.toNat < c.rate.toNat := h.2
    rw [absorbBytesSteps_count _ h.2, List.length_cons]
    exact Nat.lt_succ_iff.1 (Nat.div_lt_of_lt_mul (by omega))
  rw [absorbBytesSteps, List.count_append, ← hbyte] at hblocks
  rw [preambleByteSteps_eq, List.count_append]
  omega

/-- Before the first string byte the preamble absorbs the header, and the encoded length of S where N is empty
(43_cshake.md R129). -/
theorem beginPreambleSteps_eq (c : Context) {nlen slen : Long} (hne : ¬ (nlen = 0 ∧ slen = 0)) :
    ∃ bs : List Byte, bs.length ≤ 27 ∧
      beginPreambleSteps c nlen slen = absorbBytesSteps bs { c with suffix := 0x04 } := by
  have hR := (leftEncode_length c.rate.toNat).2
  have hN := (leftEncode_length (8 * nlen.toNat)).2
  have hS := (leftEncode_length (8 * slen.toNat)).2
  rw [beginPreambleSteps]
  by_cases hn : nlen = 0
  · have hs : slen ≠ 0 := fun hs => hne ⟨hn, hs⟩
    refine ⟨leftEncode c.rate.toNat ++ leftEncode (8 * nlen.toNat) ++ leftEncode (8 * slen.toNat),
      by simp only [List.length_append]; omega, ?_⟩
    rw [advanceSteps_of_preN rfl hn hs, absorbBytesSteps_append _ (leftEncode (8 * slen.toNat))]
    exact congrArg₂ (· ++ ·) rfl (absorbBytesSteps_congr _ rfl rfl)
  · refine ⟨leftEncode c.rate.toNat ++ leftEncode (8 * nlen.toNat), by simp only [List.length_append]; omega, ?_⟩
    rw [advanceSteps_of_rem_ne hn, List.append_nil]

/-- What is absorbed before the first string byte ends inside the first block. -/
theorem beginPreambleSteps_count {nlen slen : Long} (h : c.InSession) (h0 : c.index = 0)
    (hne : ¬ (nlen = 0 ∧ slen = 0)) : (beginPreambleSteps c nlen slen).count .permute = 0 := by
  obtain ⟨bs, hlen, hsteps⟩ := beginPreambleSteps_eq c hne
  have hinside : c.index.toNat + bs.length < c.rate.toNat := by
    have hrate := h.rate_ge
    have hindex : c.index.toNat = 0 := congrArg BitVec.toNat h0
    omega
  rw [hsteps]
  exact (absorbBytesSteps_count (c := { c with suffix := 0x04 }) bs h.2).trans (Nat.div_eq_of_lt hinside)

end Preamble

/-! The operations. -/

section Counts

variable {c : Context}

theorem keccakRuns_startCshake (fid : BitVec 4) (nlen slen : Long) (c : Context) :
    keccakRuns (.startCshake fid nlen slen) c = 0 := by
  rw [keccakRuns]
  obtain ⟨-, hsteps⟩ | ⟨row, hrow, hne, -, hsteps⟩ := startCshake_cases fid nlen slen c
  · rw [hsteps]
    rfl
  · rw [hsteps, List.count_cons_of_ne (by simp)]
    exact beginPreambleSteps_count (beginSession_inSession hrow rfl rfl) rfl hne

theorem keccakRuns_finish (olen : Long) (c : Context) : keccakRuns (.finish olen) c =
    if c.phase = .absorbing ∧ (c.dlen = 0 ∨ olen = c.dlen.setWidth 64) then 1 else 0 := by
  rw [keccakRuns]
  split
  case isTrue h => rw [laneSteps_finish_legal h]; rfl
  case isFalse h => rw [laneSteps_finish_illegal h]; rfl

theorem keccakRuns_squeeze (c : Context) : keccakRuns .squeeze c =
    if c.phase = .squeezing ∧ c.index + 1 = c.rate ∧ c.rem ≠ 1 then 1 else 0 := by
  rw [keccakRuns, laneSteps]
  simp only [sub_ne_zero]
  split <;> rfl

theorem keccakRuns_absorb_absorbing (b : Byte) (hp : c.phase = .absorbing) :
    keccakRuns (.absorb b) c = if c.index + 1 = c.rate then 1 else 0 := by
  rw [keccakRuns, laneSteps_absorb_absorbing b hp, absorbByteSteps_count]

theorem keccakRuns_absorb_preamble_le (b : Byte) (h : c.InSession) (hp : c.phase = .preN ∨ c.phase = .preS) :
    keccakRuns (.absorb b) c ≤ 2 := by
  rw [keccakRuns, laneSteps_absorb_preamble b hp]
  exact preambleByteSteps_count_le b h

theorem keccakRuns_absorb_fails (b : Byte)
    (hp : c.phase = .initial ∨ c.phase = .squeezing ∨ c.phase = .finalized) : keccakRuns (.absorb b) c = 0 := by
  rw [keccakRuns, laneSteps_absorb_fails b hp]
  rfl

theorem baseLatency_pos (op : Op) : 0 < baseLatency op := by
  cases op <;> exact PNat.pos _

end Counts

/-- Settles O58: the list is what the operation does to S (`perform_withLanes`), and each count is one lemma. -/
theorem permutationCountsAreThoseOfR185 : Obligations.PermutationCountsAreThoseOfR185 := by
  refine ⟨fun op c L => ⟨?lanes, rfl⟩, fun c hinv => ⟨rfl, fun _ => rfl, rfl,
    fun fid nlen slen => keccakRuns_startCshake fid nlen slen c, fun olen => keccakRuns_finish olen c,
    keccakRuns_squeeze c, fun b => keccakRuns_absorb_absorbing b, fun b hp => ?preamble,
    fun b => keccakRuns_absorb_fails b, fun op => ⟨Nat.add_pos_left (baseLatency_pos op) _, ?latency⟩⟩⟩
  case lanes => exact congrArg (fun r => r.ctx.lanes) (perform_withLanes op c L)
  case preamble =>
    have hsession : c.InSession := hinv.inSession (by rcases hp with hp | hp <;> simp [hp])
    exact keccakRuns_absorb_preamble_le b hsession hp
  case latency => cases op <;> rfl

end Sys2Proof.Machine
end

section
/-! PROOF. Reset in its place in the host's list (70_reset_and_hazards.md R175, R176). -/

namespace Sys2Proof.Machine

/-- Settles O4: at BUSY = 0, and at BUSY = 1 in the host's turn, the reset is the host's next event, and its values are
those of `State.reset` (R34). -/
theorem assertedResetRestoresTheResetState : Obligations.AssertedResetRestoresTheResetState := by
  intro s rest hhost hmoves
  cases busy : s.busy with
  | false => exact ⟨_, step_idle busy hhost, rfl, rfl, rfl, rfl, rfl, rfl, rfl, rfl, rfl, rfl⟩
  | true =>
    have hturn : hostFirst s = true := (hostFirst_iff s).2 (hmoves.resolve_left (by simp [busy]))
    exact ⟨_, step_busy_neverHeld busy hturn hhost rfl, rfl, rfl, rfl, rfl, rfl, rfl, rfl, rfl, rfl, rfl⟩

end Sys2Proof.Machine
end
